-- ==== Sys2Proof/Word.lean ====
section
/-! DEFINITION. The word type. A frame's width differs by device family (R70), so a frame value is a natural number
below `2 ^ T.W` (R7, R11) and only the byte, whose width is fixed, is a bit vector. The opaque tokens of R8, "compared
only for equality" (transport handles, line ids, transaction ids) and the family tags of R10 are natural numbers. -/

namespace Sys2Proof

/-- One byte of a serial frame or of a host-port presentation (R8 `SerialFrame`, R47). -/
abbrev Byte := BitVec 8

end Sys2Proof
end

