-- ==== Sys2Proof/Syntax.lean ====
section
/-! DEFINITION. The value types of R8 and the instructions: one constructor of `Instr` for each row of
spec/opcode_table.json (R92), that is the eight frame commands of the two reference families and the four host
operations. -/

namespace Sys2Proof

/-- R8. -/
inductive Direction where
  | write | read
  deriving DecidableEq, Repr, Inhabited

/-- R8: the universe of commands is exactly these five. -/
inductive Command where
  | writeOnly | writeAndUpdate | updateOnly | spanMode | powerMode
  deriving DecidableEq, Repr, Inhabited

/-- R8: the universe of channels; a family makes a subset valid. -/
inductive Channel where
  | A | B | C | D | E | F | G | H
  deriving DecidableEq, Repr, Inhabited

/-- R8: the logical pin roles. -/
inductive Role where
  | clk | dout | din | sync | latch | reset
  deriving DecidableEq, Repr, Inhabited

/-- The three roles the block drives itself (R24, R26, R45). -/
inductive CtlLine where
  | sync | latch | reset
  deriving DecidableEq, Repr, Inhabited

/-- R8: a level that is driven. -/
inductive Level where
  | low | high
  deriving DecidableEq, Repr, Inhabited

/-- R8, R24: what a line register holds. -/
inductive LineState where
  | unknown
  | known (v : Level)
  deriving DecidableEq, Repr, Inhabited

/-- R8: a typed command word. `data` and `modeBits` are mathematical naturals: they are compared with the field
widths and never masked (R5 `DATA_PORT_W`, R111). -/
structure RegisterWord where
  direction : Direction
  command   : Command
  channel   : Channel
  data      : Nat
  modeBits  : Option Nat
  deriving DecidableEq, Repr, Inhabited

/-- R8 `PinAssignment`: each role's line, or none where the role is unassigned. -/
structure Pins where
  clk   : Option Nat
  dout  : Option Nat
  din   : Option Nat
  sync  : Option Nat
  latch : Option Nat
  reset : Option Nat
  deriving DecidableEq, Repr, Inhabited

/-- R180: the configuration operand of OPEN. -/
structure OpenCfg where
  clockFreq     : Nat
  pipelineDepth : Nat
  deviceFamily  : Nat
  pins          : Pins
  deriving DecidableEq, Repr, Inhabited

/-- R190: the closed set of errors. -/
inductive Error where
  | unsupportedField | malformedFrame | missingPin | lineSequencingFailed | transportBusy | queueFull
  | transportFailure | timeout | batchPartialFailure | noSession
  deriving DecidableEq, Repr, Inhabited

/-- R22: what `RESULT` holds: Ok, Ok with a word (READ only), or an error. -/
inductive OpResult where
  | ok
  | okWord (w : RegisterWord)
  | err (e : Error)
  deriving DecidableEq, Repr, Inhabited

/-- R85: the four host operations, as `Ret` events name them (R41). -/
inductive HostOp where
  | openOp | writeOp | writeBatchOp | readOp
  deriving DecidableEq, Repr, Inhabited

/-- R41, R43: what `AwaitAll` answers. -/
inductive AwaitRes where
  | ok | transportFailure | timeout
  deriving DecidableEq, Repr, Inhabited

/-- The two reference families, which name the frame rows of the opcode table (R76, R78, R92). -/
inductive RefFamily where
  | ref32 | ref24
  deriving DecidableEq, Repr, Inhabited

/-- The instructions. A frame command carries the operands R106 to R110 give it, the optional mode bits among them
for every command, because supplying them to a command that does not accept them is a case R101 gives a result. -/
inductive Instr where
  /-- REF32.WriteOnly, R77, R106. -/
  | ref32WriteOnly (dir : Direction) (ch : Channel) (data : Nat) (mode : Option Nat)
  /-- REF32.WriteAndUpdate, R77, R107. -/
  | ref32WriteAndUpdate (dir : Direction) (ch : Channel) (data : Nat) (mode : Option Nat)
  /-- REF32.UpdateOnly, R77, R108. -/
  | ref32UpdateOnly (dir : Direction) (ch : Channel) (data : Nat) (mode : Option Nat)
  /-- REF32.SpanMode, R77, R109. -/
  | ref32SpanMode (dir : Direction) (ch : Channel) (data : Nat) (mode : Option Nat)
  /-- REF32.PowerMode, R77, R110. -/
  | ref32PowerMode (dir : Direction) (ch : Channel) (data : Nat) (mode : Option Nat)
  /-- REF24.WriteOnly, R79, R106. -/
  | ref24WriteOnly (dir : Direction) (ch : Channel) (data : Nat) (mode : Option Nat)
  /-- REF24.WriteAndUpdate, R79, R107. -/
  | ref24WriteAndUpdate (dir : Direction) (ch : Channel) (data : Nat) (mode : Option Nat)
  /-- REF24.UpdateOnly, R79, R108. -/
  | ref24UpdateOnly (dir : Direction) (ch : Channel) (data : Nat) (mode : Option Nat)
  /-- OPEN, R85, R180. -/
  | hostOpen (handle : Nat) (cfg : OpenCfg)
  /-- WRITE, R85, R140. -/
  | hostWrite (word : RegisterWord)
  /-- WRITE_BATCH, R85, R141. -/
  | hostWriteBatch (words : List RegisterWord) (latchAtEnd : Bool)
  /-- READ, R85, R155. -/
  | hostRead (word : RegisterWord)
  deriving DecidableEq, Repr, Inhabited

/-- What is presented to the block to be run: an operation on the host port, as bytes (R85), or a frame of a
reference family given to the codec (R100), as bytes in the order of R47. -/
inductive PortWord where
  | host (bytes : List Byte)
  | frame (fam : RefFamily) (bytes : List Byte)
  deriving DecidableEq, Repr, Inhabited

end Sys2Proof
end

