-- ==== Sys2Proof/Config.lean ====
section
/-! DEFINITION. What an implementation fixes: the shape of a family table entry (R70), the parameters of R5, and the
constants without a value that stand for what the spec leaves open. Every `opaque` constant here has no body: nothing
can be proved of its value. -/

namespace Sys2Proof

/-- One command of a family: its code in the command field and whether it takes mode bits (R70 `T.cmd_code`,
`T.cmd_mode`). -/
structure CmdRow where
  cmd       : Command
  code      : Nat
  takesMode : Bool
  deriving DecidableEq, Repr, Inhabited

/-- One channel of a family and its address code (R70 `T.chan_code`). -/
structure ChanRow where
  chan : Channel
  code : Nat
  deriving DecidableEq, Repr, Inhabited

/-- R70: one entry of the declarative table `FAMILIES`. The partial maps `cmd_code`, `cmd_mode` and `chan_code` are
lists of rows. -/
structure FamilyTable where
  tag              : Nat
  W                : Nat
  dirPos           : Nat
  dirWrite         : Bool
  cmdLo            : Nat
  cmdW             : Nat
  addrLo           : Nat
  addrW            : Nat
  dataLo           : Nat
  dataW            : Nat
  modeLo           : Nat
  modeW            : Nat
  cmds             : List CmdRow
  chans            : List ChanRow
  bidirectional    : Bool
  mandatoryRoles   : List Role
  powerupReset     : Bool
  tResetLowMin     : Nat
  tLatchHoldMin    : Nat
  deriving DecidableEq, Repr, Inhabited

/-- R5: the parameters of the block. They are configuration, not state: no step changes them (R10). A machine state
carries them so that every statement about all states holds for all parameters ("a model takes each OPEN parameter as
an argument"). -/
structure Params where
  /-- `MAX_DEPTH`, at least 1. -/
  maxDepth     : Nat
  /-- `MAX_WAIT`; `none` blocks indefinitely. -/
  maxWait      : Option Nat
  /-- `DIRECT_UPDATE`. -/
  directUpdate : Bool
  /-- `LATCH_IDLE`. -/
  latchIdle    : Level
  /-- `FAMILIES`. -/
  families     : List FamilyTable
  deriving DecidableEq, Repr, Inhabited

/-- One move of the environment or of the engine, where no other input comes first (R61, R143, R159): the engine
takes one step; the transport performs an outstanding transfer (the outcome and the sampled bits are draws); or the
maximum wait of the pending `AwaitAll` runs out (R43; `failed` is the transport's choice in the case of R203). -/
inductive EnvMove where
  | run
  | perf (id : Nat) (ok : Bool) (rx : Nat)
  | expire (failed : Bool)
  deriving DecidableEq, Repr, Inhabited

/-- `MAX_DEPTH - 1` of the machine after reset: R5 leaves `MAX_DEPTH >= 1` open and gives no value. -/
opaque Config.maxDepthLessOne : Nat

/-- REF32's minimum low time of the reset pulse: R5 gives no value. -/
opaque Config.ref32ResetLowMin : Nat

/-- REF32's minimum hold time of the latch pulse: R5 gives no value. -/
opaque Config.ref32LatchHoldMin : Nat

/-- REF24's minimum low time of the reset pulse: R5 gives no value. -/
opaque Config.ref24ResetLowMin : Nat

/-- REF24's minimum hold time of the latch pulse: R5 gives no value. -/
opaque Config.ref24LatchHoldMin : Nat

/-- The depth the platform configured a transport handle with, where the state lists none (R42, R44, R224). -/
opaque Config.queueDepth : Nat → Nat

/-- The line driver's answer to the n-th call for which the state lists no answer: a draw (R45, R46). -/
opaque Config.lineAnswer : Nat → Bool

/-- The n-th move where the state lists no input: a draw (R61, R159). -/
opaque Config.envMove : Nat → EnvMove

/-- The byte at a place of the host port where the presented bytes have none: a free value (R85 gives every operation
all its operands; assumption 11). -/
opaque Config.undrivenByte : List Byte → Nat → Byte

/-- The direction that a port code above 1 at a place of the presented bytes stands for: R86 states none (assumption
11). -/
opaque Config.unstatedDirection : List Byte → Nat → Direction

/-- The command that a port code above 4 stands for: R86 states none (assumption 11). -/
opaque Config.unstatedCommand : List Byte → Nat → Command

/-- The channel that a port code above 7 stands for: R86 states none (assumption 11). -/
opaque Config.unstatedChannel : List Byte → Nat → Channel

/-- The Bool, or the presence bit, that a byte above 1 stands for: R85 and R86 state none (assumption 11). -/
opaque Config.unstatedBool : List Byte → Nat → Bool

end Sys2Proof
end

