-- ==== Sys2Proof/Machine/Families.lean ====
section
/-! DEFINITION. The two reference entries of `FAMILIES` (R76, R78) and the lookups of a table entry (R70). -/

namespace Sys2Proof

/-- R76: the entry REF32, its two durations being parameters. -/
def ref32With (tResetLowMin tLatchHoldMin : Nat) : FamilyTable :=
  { tag := 0, W := 32, dirPos := 31, dirWrite := false
    cmdLo := 27, cmdW := 4, addrLo := 24, addrW := 3, dataLo := 0, dataW := 16, modeLo := 16, modeW := 4
    cmds := [⟨.writeOnly, 0, false⟩, ⟨.writeAndUpdate, 1, false⟩, ⟨.updateOnly, 2, false⟩,
             ⟨.spanMode, 3, true⟩, ⟨.powerMode, 4, true⟩]
    chans := [⟨.A, 0⟩, ⟨.B, 1⟩, ⟨.C, 2⟩, ⟨.D, 3⟩]
    bidirectional := true, mandatoryRoles := [.clk, .dout, .sync], powerupReset := true
    tResetLowMin := tResetLowMin, tLatchHoldMin := tLatchHoldMin }

/-- R78: the entry REF24, its two durations being parameters. -/
def ref24With (tResetLowMin tLatchHoldMin : Nat) : FamilyTable :=
  { tag := 1, W := 24, dirPos := 23, dirWrite := false
    cmdLo := 20, cmdW := 3, addrLo := 18, addrW := 2, dataLo := 4, dataW := 12, modeLo := 0, modeW := 0
    cmds := [⟨.writeOnly, 0, false⟩, ⟨.writeAndUpdate, 1, false⟩, ⟨.updateOnly, 2, false⟩]
    chans := [⟨.A, 0⟩, ⟨.B, 1⟩, ⟨.C, 2⟩]
    bidirectional := false, mandatoryRoles := [.clk, .dout, .sync, .latch], powerupReset := true
    tResetLowMin := tResetLowMin, tLatchHoldMin := tLatchHoldMin }

/-- R76. -/
def ref32 : FamilyTable := ref32With Config.ref32ResetLowMin Config.ref32LatchHoldMin

/-- R78. -/
def ref24 : FamilyTable := ref24With Config.ref24ResetLowMin Config.ref24LatchHoldMin

/-- The table entry of a reference family. -/
def RefFamily.table : RefFamily → FamilyTable
  | .ref32 => Sys2Proof.ref32
  | .ref24 => Sys2Proof.ref24

/-- R70: `T.L = T.W / 8`. -/
def FamilyTable.L (T : FamilyTable) : Nat := T.W / 8

/-- R70: the row of a command, none outside `dom(T.cmd_code)`. -/
def FamilyTable.cmdRow? (T : FamilyTable) (c : Command) : Option CmdRow :=
  T.cmds.find? fun r => r.cmd == c

/-- R104: `T.cmd_code^-1`, with the command's row. -/
def FamilyTable.cmdOfCode? (T : FamilyTable) (k : Nat) : Option CmdRow :=
  T.cmds.find? fun r => r.code == k

/-- R70: the row of a channel, none outside `dom(T.chan_code)`. -/
def FamilyTable.chanRow? (T : FamilyTable) (c : Channel) : Option ChanRow :=
  T.chans.find? fun r => r.chan == c

/-- R104: `T.chan_code^-1`, with the channel's row. -/
def FamilyTable.chanOfCode? (T : FamilyTable) (k : Nat) : Option ChanRow :=
  T.chans.find? fun r => r.code == k

/-- R70: the entry of `FAMILIES` a tag selects. -/
def Params.table? (p : Params) (tag : Nat) : Option FamilyTable :=
  p.families.find? fun T => T.tag == tag

/-- The line a pin assignment gives a role. -/
def Pins.get (p : Pins) : Role → Option Nat
  | .clk => p.clk
  | .dout => p.dout
  | .din => p.din
  | .sync => p.sync
  | .latch => p.latch
  | .reset => p.reset

/-- The role of a control line. -/
def CtlLine.role : CtlLine → Role
  | .sync => .sync
  | .latch => .latch
  | .reset => .reset

/-- The line a pin assignment gives a control line's role. -/
def Pins.ctl (p : Pins) (r : CtlLine) : Option Nat := p.get r.role

end Sys2Proof
end

