-- ==== Sys2Proof/Machine/Operands.lean ====
section
/-! DEFINITION. Operand forms: the fields of a frame, the byte and bit orders (R47, R48), which words a family can
carry (R101), the frame value of a word (R72), and the abbreviations of R91. -/

namespace Sys2Proof

/-- R7: `f[lo+w-1 : lo]` as a number. -/
def fieldOf (f lo w : Nat) : Nat := (f >>> lo) % 2 ^ w

/-- Whether bit `i` belongs to the field of width `w` at `lo`. -/
def inField (lo w i : Nat) : Bool := decide (lo ≤ i) && decide (i < lo + w)

/-- R70: a reserved bit of the family: a bit of the frame in none of the five fields. -/
def FamilyTable.isReserved (T : FamilyTable) (i : Nat) : Bool :=
  decide (i < T.W) && !(inField T.dirPos 1 i) && !(inField T.cmdLo T.cmdW i) && !(inField T.addrLo T.addrW i) &&
    !(inField T.dataLo T.dataW i) && !(inField T.modeLo T.modeW i)

/-- R104: no reserved bit of `f` is 1. -/
def FamilyTable.reservedClear (T : FamilyTable) (f : Nat) : Bool :=
  (List.range T.W).all fun i => !(T.isReserved i && f.testBit i)

/-- R47: the bytes of a `W`-bit frame value, most significant first: `byte[k] = f[W-1-8k : W-8-8k]`. -/
def frameBytes (W f : Nat) : List Byte :=
  (List.range (W / 8)).map fun k => BitVec.ofNat 8 (f >>> (W - 8 - 8 * k))

/-- R47 read backwards: the value whose most significant byte is the first. -/
def frameOfBytes (b : List Byte) : Nat := b.foldl (fun acc x => acc * 256 + x.toNat) 0

/-- R48: the bits of a byte in the order they leave: bit 7 first. -/
def byteBits (b : Byte) : List Bool := (List.range 8).map fun i => b.getLsbD (7 - i)

/-- R48: the bits of a frame in the order they leave on the wire: byte 0 first. -/
def wireBits (b : List Byte) : List Bool := b.flatMap byteBits

/-- R101 clauses (d) and (e): mode bits are absent where the command takes none, and present and below
`2^T.mode_w` where it takes them. -/
def modeAccepted (T : FamilyTable) (takesMode : Bool) (m : Option Nat) : Bool :=
  match takesMode, m with
  | false, none => true
  | true, some v => decide (v < 2 ^ T.modeW)
  | _, _ => false

/-- R101: the words ENCODE accepts. -/
def representable (T : FamilyTable) (w : RegisterWord) : Bool :=
  match T.chanRow? w.channel, T.cmdRow? w.command with
  | some _, some r => decide (w.data < 2 ^ T.dataW) && modeAccepted T r.takesMode w.modeBits
  | _, _ => false

/-- R72: `dirbit`, the value of the direction bit. -/
def dirBit (T : FamilyTable) (d : Direction) : Nat :=
  match d with
  | .write => T.dirWrite.toNat
  | .read => 1 - T.dirWrite.toNat

/-- R72: the mode field's value. -/
def modeValue (m : Option Nat) : Nat :=
  match m with
  | some v => v
  | none => 0

/-- R72: the five fields put together. -/
def assemble (T : FamilyTable) (dir cmd chan data mode : Nat) : Nat :=
  dir <<< T.dirPos ||| cmd <<< T.cmdLo ||| chan <<< T.addrLo ||| data <<< T.dataLo ||| mode <<< T.modeLo

/-- R72: the frame value of a word, where the family has its command and its channel. -/
def frameValue? (T : FamilyTable) (w : RegisterWord) : Option Nat :=
  match T.cmdRow? w.command, T.chanRow? w.channel with
  | some r, some a => some (assemble T (dirBit T w.direction) r.code a.code w.data (modeValue w.modeBits))
  | _, _ => none

/-- R190: the port code of an error. -/
def Error.code : Error → Nat
  | .unsupportedField => 1
  | .malformedFrame => 2
  | .missingPin => 3
  | .lineSequencingFailed => 4
  | .transportBusy => 5
  | .queueFull => 6
  | .transportFailure => 7
  | .timeout => 8
  | .batchPartialFailure => 9
  | .noSession => 10

/-- R88: the value a result takes on the host port. -/
def OpResult.code : OpResult → Nat
  | .ok => 0
  | .okWord _ => 0
  | .err e => e.code

/-- R91: `latch_only()`. -/
def latchOnly : Instr := .hostWriteBatch [] true

/-- R91: `write_rgb(r, g, b)`. -/
def writeRgb (r g b : Nat) : Instr :=
  .hostWriteBatch
    [⟨.write, .writeOnly, .A, r, none⟩, ⟨.write, .writeOnly, .B, g, none⟩, ⟨.write, .writeOnly, .C, b, none⟩] true

end Sys2Proof
end

