-- ==== Sys2Proof/Machine/Codec.lean ====
section
/-! DEFINITION. The Register Word Codec: ENCODE (R101) and DECODE (R104), pure functions of a family table entry and
their argument (R100). -/

namespace Sys2Proof

/-- R101 ENCODE, its result as a frame value. -/
def encodeValue (T : FamilyTable) (w : RegisterWord) : Except Error Nat :=
  if representable T w then
    match frameValue? T w with
    | some f => .ok f
    | none => .error .unsupportedField
  else .error .unsupportedField

/-- R101 ENCODE: the frame's bytes, or `UnsupportedField`. -/
def encodeWord (T : FamilyTable) (w : RegisterWord) : Except Error (List Byte) :=
  match encodeValue T w with
  | .ok f => .ok (frameBytes T.W f)
  | .error e => .error e

/-- R142 A5, R143: the words of an operation encoded in ascending order, or the first error. -/
def encodeAll (T : FamilyTable) : List RegisterWord → Except Error (List Nat)
  | [] => .ok []
  | w :: ws =>
    match encodeValue T w with
    | .error e => .error e
    | .ok f =>
      match encodeAll T ws with
      | .error e => .error e
      | .ok fs => .ok (f :: fs)

/-- R104: the mode bits DECODE hands back, none where the frame is malformed. -/
def decodeMode (takesMode : Bool) (m : Nat) : Option (Option Nat) :=
  if takesMode then some (some m) else if m = 0 then some none else none

/-- R104: the direction a direction bit stands for. -/
def decodeDir (T : FamilyTable) (bit : Bool) : Direction := if bit = T.dirWrite then .write else .read

/-- R104 DECODE on a frame value, after the length check. -/
def decodeValue (T : FamilyTable) (f : Nat) : Except Error RegisterWord :=
  if T.reservedClear f then
    match T.cmdOfCode? (fieldOf f T.cmdLo T.cmdW) with
    | none => .error .malformedFrame
    | some r =>
      match T.chanOfCode? (fieldOf f T.addrLo T.addrW) with
      | none => .error .malformedFrame
      | some a =>
        match decodeMode r.takesMode (fieldOf f T.modeLo T.modeW) with
        | none => .error .malformedFrame
        | some m => .ok ⟨decodeDir T (f.testBit T.dirPos), r.cmd, a.chan, fieldOf f T.dataLo T.dataW, m⟩
  else .error .malformedFrame

/-- R104 DECODE. -/
def decodeWord (T : FamilyTable) (b : List Byte) : Except Error RegisterWord :=
  if b.length = T.L then decodeValue T (frameOfBytes b) else .error .malformedFrame

end Sys2Proof
end

