-- ==== Sys2Proof/WellFormed.lean ====
section
/-! DEFINITION. When a family table entry is well formed (R71), when parameters are, and when an instruction is: its
operands are ones the encoding it has in the opcode table can carry. -/

namespace Sys2Proof

/-- R71 (b): two fields share no bit. -/
def disjointFields (lo₁ w₁ lo₂ w₂ : Nat) : Bool :=
  decide (w₁ = 0) || decide (w₂ = 0) || decide (lo₁ + w₁ ≤ lo₂) || decide (lo₂ + w₂ ≤ lo₁)

/-- R71 (a): a field lies inside `[0, W)`. -/
def insideFrame (W lo w : Nat) : Bool := decide (w = 0) || decide (lo + w ≤ W)

/-- R70: `T.W` is a positive multiple of 8, and every field but the mode field has at least one bit. -/
def FamilyTable.widthsOk (T : FamilyTable) : Bool :=
  decide (0 < T.W) && decide (T.W % 8 = 0) && decide (1 ≤ T.cmdW) && decide (1 ≤ T.addrW) && decide (1 ≤ T.dataW)

/-- R71 (a). -/
def FamilyTable.fieldsInside (T : FamilyTable) : Bool :=
  insideFrame T.W T.dirPos 1 && insideFrame T.W T.cmdLo T.cmdW && insideFrame T.W T.addrLo T.addrW &&
    insideFrame T.W T.dataLo T.dataW && insideFrame T.W T.modeLo T.modeW

/-- R71 (b): no two of the five fields share a bit. -/
def FamilyTable.fieldsDisjoint (T : FamilyTable) : Bool :=
  disjointFields T.dirPos 1 T.cmdLo T.cmdW && disjointFields T.dirPos 1 T.addrLo T.addrW &&
    disjointFields T.dirPos 1 T.dataLo T.dataW && disjointFields T.dirPos 1 T.modeLo T.modeW &&
    disjointFields T.cmdLo T.cmdW T.addrLo T.addrW && disjointFields T.cmdLo T.cmdW T.dataLo T.dataW &&
    disjointFields T.cmdLo T.cmdW T.modeLo T.modeW && disjointFields T.addrLo T.addrW T.dataLo T.dataW &&
    disjointFields T.addrLo T.addrW T.modeLo T.modeW && disjointFields T.dataLo T.dataW T.modeLo T.modeW

/-- R71 (c): the maps are partial functions, injective, and every code fits its field. -/
def FamilyTable.codesOk (T : FamilyTable) : Bool :=
  decide (T.cmds.map (·.cmd)).Nodup && decide (T.cmds.map (·.code)).Nodup &&
    T.cmds.all (fun r => decide (r.code < 2 ^ T.cmdW)) &&
    decide (T.chans.map (·.chan)).Nodup && decide (T.chans.map (·.code)).Nodup &&
    T.chans.all (fun r => decide (r.code < 2 ^ T.addrW))

/-- R71 (d), (e) and (f). -/
def FamilyTable.rowsOk (T : FamilyTable) : Bool :=
  !T.cmds.isEmpty && !T.chans.isEmpty && (decide (T.modeW ≠ 0) || T.cmds.all (fun r => !r.takesMode)) &&
    T.mandatoryRoles.contains .clk && T.mandatoryRoles.contains .dout && T.mandatoryRoles.contains .sync

/-- R71. -/
def FamilyTable.wf (T : FamilyTable) : Bool :=
  T.widthsOk && T.fieldsInside && T.fieldsDisjoint && T.codesOk && T.rowsOk

/-- R5, R71: `MAX_DEPTH >= 1`, only well-formed entries are in `FAMILIES`, and a tag selects one entry. -/
def Params.wf (p : Params) : Bool :=
  decide (1 ≤ p.maxDepth) && p.families.all FamilyTable.wf && decide (p.families.map (·.tag)).Nodup

/-- A value that four operand bytes carry (R86 `DATA_PORT_W = 32`, and the port's own choice for the other numbers). -/
def fits32 (v : Nat) : Bool := decide (v < 2 ^ 32)

/-- An optional value whose value, if there is one, four operand bytes carry. -/
def optFits32 (v : Option Nat) : Bool :=
  match v with
  | none => true
  | some x => fits32 x

/-- A word the host port carries (R86). -/
def RegisterWord.portWf (w : RegisterWord) : Bool := fits32 w.data && optFits32 w.modeBits

/-- A pin assignment the host port carries (R87). -/
def Pins.portWf (p : Pins) : Bool :=
  optFits32 p.clk && optFits32 p.dout && optFits32 p.din && optFits32 p.sync && optFits32 p.latch && optFits32 p.reset

/-- An OPEN configuration the host port carries; a depth of 0 cannot be expressed (R180). -/
def OpenCfg.portWf (c : OpenCfg) : Bool :=
  fits32 c.clockFreq && decide (1 ≤ c.pipelineDepth) && decide (c.pipelineDepth ≤ 2 ^ 32) &&
    decide (c.deviceFamily < 2 ^ 8) && c.pins.portWf

/-- The word of a frame command of a reference family is one the family can carry (R101). -/
def frameWf (fam : RefFamily) (cmd : Command) (dir : Direction) (ch : Channel) (data : Nat) (mode : Option Nat) : Bool :=
  representable fam.table ⟨dir, cmd, ch, data, mode⟩

/-- The instruction's operands are ones its encoding can carry. -/
def Instr.wf : Instr → Bool
  | .ref32WriteOnly d c x m => frameWf .ref32 .writeOnly d c x m
  | .ref32WriteAndUpdate d c x m => frameWf .ref32 .writeAndUpdate d c x m
  | .ref32UpdateOnly d c x m => frameWf .ref32 .updateOnly d c x m
  | .ref32SpanMode d c x m => frameWf .ref32 .spanMode d c x m
  | .ref32PowerMode d c x m => frameWf .ref32 .powerMode d c x m
  | .ref24WriteOnly d c x m => frameWf .ref24 .writeOnly d c x m
  | .ref24WriteAndUpdate d c x m => frameWf .ref24 .writeAndUpdate d c x m
  | .ref24UpdateOnly d c x m => frameWf .ref24 .updateOnly d c x m
  | .hostOpen h cfg => fits32 h && cfg.portWf
  | .hostWrite w => w.portWf
  | .hostWriteBatch ws _ => fits32 ws.length && ws.all RegisterWord.portWf
  | .hostRead w => w.portWf

end Sys2Proof
end

