-- ==== Sys2Proof/Decode.lean ====
section
/-! DEFINITION. The decoder, total on any bytes, and after it the encoder. A frame is read by DECODE (R104) and named
by its command (R77, R79). A host operation is its code (R85) and then its operands, whose integers are those of R86
and R87; how the operands lie in bytes is this model's choice (assumption 2). -/

namespace Sys2Proof

/-- What the decoder makes of a presented word. -/
inductive Decoded where
  /-- An instruction. -/
  | instr (i : Instr)
  /-- A host operation code that selects no operation (R85). -/
  | unassigned
  /-- A frame DECODE does not accept (R104). -/
  | malformed
  deriving DecidableEq, Repr, Inhabited

/-- `k` bytes of a number, the least significant first. -/
def leBytes : Nat → Nat → List Byte
  | 0, _ => []
  | k + 1, v => BitVec.ofNat 8 v :: leBytes k (v / 256)

/-- The number whose bytes are given, the least significant first. -/
def ofLeBytes : List Byte → Nat
  | [] => 0
  | b :: bs => b.toNat + 256 * ofLeBytes bs

/-- The byte at a place of the port; where the presented bytes have none it is a free value. -/
def byteAt (b : List Byte) (k : Nat) : Byte := (b[k]?).getD (Config.undrivenByte b k)

/-- The byte at a place, as a number. -/
def numAt (b : List Byte) (k : Nat) : Nat := (byteAt b k).toNat

/-- The four bytes from a place on, as a number. -/
def word32At (b : List Byte) (k : Nat) : Nat :=
  ofLeBytes [byteAt b k, byteAt b (k + 1), byteAt b (k + 2), byteAt b (k + 3)]

/-- R86: Direction. -/
def directionAt (b : List Byte) (k : Nat) : Direction :=
  match numAt b k with
  | 0 => .write
  | 1 => .read
  | _ => Config.unstatedDirection b k

/-- R86: Command. -/
def commandAt (b : List Byte) (k : Nat) : Command :=
  match numAt b k with
  | 0 => .writeOnly
  | 1 => .writeAndUpdate
  | 2 => .updateOnly
  | 3 => .spanMode
  | 4 => .powerMode
  | _ => Config.unstatedCommand b k

/-- R86: Channel. -/
def channelAt (b : List Byte) (k : Nat) : Channel :=
  match numAt b k with
  | 0 => .A
  | 1 => .B
  | 2 => .C
  | 3 => .D
  | 4 => .E
  | 5 => .F
  | 6 => .G
  | 7 => .H
  | _ => Config.unstatedChannel b k

/-- R85, R86: a Bool operand, or a presence bit. -/
def boolAt (b : List Byte) (k : Nat) : Bool :=
  match numAt b k with
  | 0 => false
  | 1 => true
  | _ => Config.unstatedBool b k

/-- R86, R87: an optional number: a presence byte and four bytes, which are not read where it is absent. -/
def opt32At (b : List Byte) (k : Nat) : Option Nat := if boolAt b k then some (word32At b (k + 1)) else none

/-- How many bytes a `RegisterWord` operand takes. -/
def regWordSize : Nat := 12

/-- R86: a `RegisterWord` operand: direction, command, channel, data, mode bits. -/
def regWordAt (b : List Byte) (k : Nat) : RegisterWord :=
  ⟨directionAt b k, commandAt b (k + 1), channelAt b (k + 2), word32At b (k + 3), opt32At b (k + 7)⟩

/-- R87: a `pins` operand: six optional line ids in the order CLK, DOUT, DIN, SYNC, LATCH, RESET. -/
def pinsAt (b : List Byte) (k : Nat) : Pins :=
  ⟨opt32At b k, opt32At b (k + 5), opt32At b (k + 10), opt32At b (k + 15), opt32At b (k + 20), opt32At b (k + 25)⟩

/-- R85: the operands of OPEN; the depth is carried less one, since a depth is at least 1. -/
def openOf (b : List Byte) : Instr :=
  .hostOpen (word32At b 1) ⟨word32At b 5, word32At b 9 + 1, numAt b 13, pinsAt b 14⟩

/-- R85: the operands of WRITE_BATCH. -/
def writeBatchOf (b : List Byte) : Instr :=
  .hostWriteBatch ((List.range (word32At b 1)).map fun i => regWordAt b (5 + regWordSize * i))
    (boolAt b (5 + regWordSize * word32At b 1))

/-- R85: the operation a code selects, with its operands; bytes after the last operand are not the operation's. -/
def decodeHost (b : List Byte) : Decoded :=
  match numAt b 0 with
  | 1 => .instr (openOf b)
  | 2 => .instr (.hostWrite (regWordAt b 1))
  | 3 => .instr (writeBatchOf b)
  | 4 => .instr (.hostRead (regWordAt b 1))
  | _ => .unassigned

/-- R92: the opcode row of a word of a reference family, none where the family has no such row. -/
def frameInstr? (fam : RefFamily) (w : RegisterWord) : Option Instr :=
  match fam, w.command with
  | .ref32, .writeOnly => some (.ref32WriteOnly w.direction w.channel w.data w.modeBits)
  | .ref32, .writeAndUpdate => some (.ref32WriteAndUpdate w.direction w.channel w.data w.modeBits)
  | .ref32, .updateOnly => some (.ref32UpdateOnly w.direction w.channel w.data w.modeBits)
  | .ref32, .spanMode => some (.ref32SpanMode w.direction w.channel w.data w.modeBits)
  | .ref32, .powerMode => some (.ref32PowerMode w.direction w.channel w.data w.modeBits)
  | .ref24, .writeOnly => some (.ref24WriteOnly w.direction w.channel w.data w.modeBits)
  | .ref24, .writeAndUpdate => some (.ref24WriteAndUpdate w.direction w.channel w.data w.modeBits)
  | .ref24, .updateOnly => some (.ref24UpdateOnly w.direction w.channel w.data w.modeBits)
  | .ref24, .spanMode => none
  | .ref24, .powerMode => none

/-- A frame of a reference family. -/
def decodeFrame (fam : RefFamily) (b : List Byte) : Decoded :=
  match decodeWord fam.table b with
  | .error _ => .malformed
  | .ok w =>
    match frameInstr? fam w with
    | some i => .instr i
    | none => .malformed

/-- The decoder. -/
def decode : PortWord → Decoded
  | .host b => decodeHost b
  | .frame fam b => decodeFrame fam b

/-- How many operand bytes of zeros stand after the bits an opcode-table row gives. -/
def operandZeros : Nat := 64

/-- An instruction whose bits are `w`, as spec/opcode_table.json numbers them, laid out as the hardware takes it: a
row of 32 bits is a REF32 frame, a row of 24 bits a REF24 frame (R92), each most significant byte first (R47), and
any other row a host operation, its code first (R85) and operands of zeros after the bits given. -/
def tableWord (nbits w : Nat) : PortWord :=
  if nbits = 32 then .frame .ref32 (frameBytes 32 w)
  else if nbits = 24 then .frame .ref24 (frameBytes 24 w)
  else .host (leBytes (nbits / 8) w ++ List.replicate operandZeros 0)

/-- The instruction the decoder reads from an instruction whose bits are `w`, numbered as spec/opcode_table.json
numbers them. -/
def decodeTableWord (nbits w : Nat) : Option Instr :=
  match decode (tableWord nbits w) with
  | .instr i => some i
  | _ => none

/-- R86: Direction. -/
def directionCode : Direction → Nat
  | .write => 0
  | .read => 1

/-- R86: Command. -/
def commandCode : Command → Nat
  | .writeOnly => 0
  | .writeAndUpdate => 1
  | .updateOnly => 2
  | .spanMode => 3
  | .powerMode => 4

/-- R86: Channel. -/
def channelCode : Channel → Nat
  | .A => 0
  | .B => 1
  | .C => 2
  | .D => 3
  | .E => 4
  | .F => 5
  | .G => 6
  | .H => 7

/-- R86: Level. -/
def levelCode : Level → Nat
  | .low => 0
  | .high => 1

/-- R87: Role. -/
def roleCode : Role → Nat
  | .clk => 0
  | .dout => 1
  | .din => 2
  | .sync => 3
  | .latch => 4
  | .reset => 5

/-- R86: an optional number as a presence byte and four bytes. -/
def putOpt32 : Option Nat → List Byte
  | none => leBytes 1 0 ++ leBytes 4 0
  | some v => leBytes 1 1 ++ leBytes 4 v

/-- R86: a `RegisterWord` operand. -/
def putRegWord (w : RegisterWord) : List Byte :=
  leBytes 1 (directionCode w.direction) ++ leBytes 1 (commandCode w.command) ++ leBytes 1 (channelCode w.channel) ++
    leBytes 4 w.data ++ putOpt32 w.modeBits

/-- R87: a `pins` operand. -/
def putPins (p : Pins) : List Byte :=
  putOpt32 p.clk ++ putOpt32 p.dout ++ putOpt32 p.din ++ putOpt32 p.sync ++ putOpt32 p.latch ++ putOpt32 p.reset

/-- The frame of a word of a reference family: the fields of R72 at the places of R76 and R78; no bytes where the
family lacks the command or the channel, which a well-formed instruction's does not. -/
def encodeFrame (fam : RefFamily) (w : RegisterWord) : PortWord :=
  match frameValue? fam.table w with
  | some f => .frame fam (frameBytes fam.table.W f)
  | none => .frame fam []

/-- The encoder: what is presented to the block for an instruction. -/
def encode : Instr → PortWord
  | .ref32WriteOnly d c x m => encodeFrame .ref32 ⟨d, .writeOnly, c, x, m⟩
  | .ref32WriteAndUpdate d c x m => encodeFrame .ref32 ⟨d, .writeAndUpdate, c, x, m⟩
  | .ref32UpdateOnly d c x m => encodeFrame .ref32 ⟨d, .updateOnly, c, x, m⟩
  | .ref32SpanMode d c x m => encodeFrame .ref32 ⟨d, .spanMode, c, x, m⟩
  | .ref32PowerMode d c x m => encodeFrame .ref32 ⟨d, .powerMode, c, x, m⟩
  | .ref24WriteOnly d c x m => encodeFrame .ref24 ⟨d, .writeOnly, c, x, m⟩
  | .ref24WriteAndUpdate d c x m => encodeFrame .ref24 ⟨d, .writeAndUpdate, c, x, m⟩
  | .ref24UpdateOnly d c x m => encodeFrame .ref24 ⟨d, .updateOnly, c, x, m⟩
  | .hostOpen h cfg =>
    .host (leBytes 1 1 ++ leBytes 4 h ++ leBytes 4 cfg.clockFreq ++ leBytes 4 (cfg.pipelineDepth - 1) ++
      leBytes 1 cfg.deviceFamily ++ putPins cfg.pins)
  | .hostWrite w => .host (leBytes 1 2 ++ putRegWord w)
  | .hostWriteBatch ws latch =>
    .host (leBytes 1 3 ++ leBytes 4 ws.length ++ ws.flatMap putRegWord ++ leBytes 1 latch.toNat)
  | .hostRead w => .host (leBytes 1 4 ++ putRegWord w)

/-- The bytes of what is presented. -/
def PortWord.bytes : PortWord → List Byte
  | .host b => b
  | .frame _ b => b

end Sys2Proof
end

