-- ==== Sys2Proof/Machine/State.lean ====
section
/-! DEFINITION. The state of the block as plain data (R10), the environment it is coupled to (R27, R61), and the
state after reset (R32). -/

namespace Sys2Proof.Machine

/-- R14: the six values of the batch state machine. -/
inductive Fsm where
  | idle | submitting | awaitingCompletion | allConfirmed | latching | anyFailed
  deriving DecidableEq, Repr, Inhabited

/-- R18. -/
inductive Mode where
  | direct | pipelined
  deriving DecidableEq, Repr, Inhabited

/-- The labelled line of R143 the engine is at: the position R159 steps through, finer than `FSM`. -/
inductive EngineLine where
  /-- No operation in flight. -/
  | idle
  /-- S1: SYNC_ASSERT in Direct mode. -/
  | s1
  /-- S2 and S3: submit the next frame, or leave `Submitting`. -/
  | s2
  /-- W1: the one `AwaitAll`. -/
  | w1
  /-- W1 after a timeout: the first call of LINES_IDLE. -/
  | w1Sync
  /-- W1 after a timeout: the second call of LINES_IDLE. -/
  | w1Latch
  /-- W2: SYNC_DEASSERT in Direct mode. -/
  | w2
  /-- W3: choose `AllConfirmed` or `AnyFailed`. -/
  | w3
  /-- C1. -/
  | c1
  /-- C1 in state `Latching`: LATCH_PULSE. -/
  | latch
  /-- C2: the read-back is decoded. -/
  | c2
  /-- C3: the operation ends. -/
  | c3
  /-- F1: the operation ends with the recorded error. -/
  | f1
  deriving DecidableEq, Repr, Inhabited

/-- R21: the session's configuration. -/
structure Cfg where
  family    : Nat
  pins      : Pins
  handle    : Nat
  depth     : Nat
  clockFreq : Nat
  deriving DecidableEq, Repr, Inhabited

/-- R41: the events of a trace. -/
inductive Event where
  | line (r : CtlLine) (v : Level) (ok : Bool)
  | pulse (r : CtlLine) (d : Nat) (ok : Bool)
  | sub (id : Nat) (f : Nat) (nbits : Nat)
  | subFull
  | await (ids : List Nat) (res : AwaitRes)
  | ret (op : HostOp) (res : OpResult)
  | perf (id : Nat) (ok : Bool)
  deriving DecidableEq, Repr, Inhabited

/-- R42, R44: a transfer the transport holds, submitted and not yet completed. -/
structure Transfer where
  id     : Nat
  handle : Nat
  bytes  : List Byte
  nbits  : Nat
  deriving DecidableEq, Repr, Inhabited

/-- R61, R208: a completion that no `AwaitAll` has returned yet: its outcome and the bytes sampled on data-in. -/
structure Completion where
  id : Nat
  ok : Bool
  rx : List Byte
  deriving DecidableEq, Repr, Inhabited

/-- R27, R42: the transport's side of the port: outstanding transfers, completions not yet observed, the next fresh
id, and the depths the platform configured its handles with. -/
structure Transport where
  outstanding : List Transfer
  completions : List Completion
  nextId      : Nat
  depths      : List (Nat × Nat)
  deriving DecidableEq, Repr, Inhabited

/-- The lines of OPEN's pseudocode after its checks (R180 O3, O4): the one that comes next. -/
inductive OpenLine where
  /-- O3: SYNC is driven `High`. -/
  | sync
  /-- O3: LATCH is driven to its idle level. -/
  | latch
  /-- O3: RESET is driven `High`. -/
  | reset
  /-- O3: RESET_PULSE, where the family asks for it. -/
  | pulse
  /-- O4: the session is established. -/
  | done
  /-- O3: a line call has failed, and OPEN returns with the error. -/
  | failed
  deriving DecidableEq, Repr, Inhabited

/-- An OPEN that has passed its checks and not returned yet: its operands and the line it is at (R180). `FSM` is `Idle`
throughout. -/
structure Opening where
  handle : Nat
  cfg    : OpenCfg
  line   : OpenLine
  deriving DecidableEq, Repr, Inhabited

/-- What reaches the block from outside at one step: a presentation (R85, R100), a move of the environment or of the
engine (R61, R143), or the reset input (R220). -/
inductive Input where
  | port (w : PortWord)
  | move (m : EnvMove)
  | reset
  deriving DecidableEq, Repr, Inhabited

/-- What the last evaluation of the codec answered (R100): the model's own window on a pure function. -/
inductive CodecOut where
  | none
  | encoded (w : RegisterWord) (bytes : List Byte)
  | error (e : Error)
  deriving DecidableEq, Repr, Inhabited

/-- The machine's state. The first block of fields is R10's tuple. The second is the model's own: the engine's
position and local result in R143, the parameters, the environment, and the observation. -/
structure State where
  /-- `SESSION_VALID`, R20. -/
  sessionValid : Bool
  /-- `CFG`, R21. -/
  cfg : Cfg
  /-- `FSM`, R14. -/
  fsm : Fsm
  /-- `MODE`, R18. -/
  mode : Mode
  /-- `RDBACK`, R18. -/
  rdback : Bool
  /-- `N`, R13. -/
  n : Nat
  /-- `SUB_IDX`, R15. -/
  subIdx : Nat
  /-- `FRAME[0 .. MAX_DEPTH-1]`, R11. -/
  frame : List Nat
  /-- `ID[0 .. MAX_DEPTH-1]`, R12. -/
  ids : List Nat
  /-- `RX`, R25. -/
  rx : List Byte
  /-- `LATCH_REQ`, R17. -/
  latchReq : Bool
  /-- `FAIL`, R16. -/
  failed : Bool
  /-- `ERR`, R16. -/
  err : Error
  /-- `LINE[SYNC]`, R24. -/
  lineSync : LineState
  /-- `LINE[LATCH]`, R24. -/
  lineLatch : LineState
  /-- `LINE[RESET]`, R24. -/
  lineReset : LineState
  /-- `RESULT`, R22. -/
  result : OpResult
  /-- The labelled line of R143 the engine is at. -/
  pc : EngineLine
  /-- The local variable `res` of R143. -/
  res : OpResult
  /-- The OPEN in progress, if there is one (R180). -/
  opening : Option Opening
  /-- The parameters of R5; no step changes them. -/
  par : Params
  /-- The transport's hidden state, R27. -/
  transport : Transport
  /-- The inputs still to come, the next one first. -/
  inbox : List Input
  /-- The line driver's answers still to come, the next one first (R45, R46). -/
  lineAnswers : List Bool
  /-- How many draws were taken from the constants of Config. -/
  draws : Nat
  /-- What the codec answered last. -/
  codecOut : CodecOut
  /-- The trace, oldest event first (R41). -/
  trace : List Event
  /-- The trace's length when the operation in flight was admitted; no rule reads it. -/
  opStart : Nat
  /-- The trace's length when the reset input last abandoned an operation (R222, R239); no step reads it. -/
  abandonedAt : Option Nat
  deriving DecidableEq, Repr

/-- Why a step stops with a fault. Neither can be raised in a state that meets the invariant of Safety.lean. -/
inductive Fault where
  /-- The session's `CFG.FAMILY`, or the family of the OPEN in progress, selects no entry of `FAMILIES`. Raised by WRITE,
  WRITE_BATCH and READ after the session check, by the engine and by OPEN's RESET_PULSE; safe: R21 and R180 let no such
  session or OPEN exist. -/
  | noSuchFamily
  /-- `SUB_IDX` is below `N` and names no slot of `FRAME`. Raised by the engine's submission; safe: R13 lets no such
  state exist. -/
  | noSuchSlot
  deriving DecidableEq, Repr

/-- Why a step gives a presentation no meaning. -/
inductive Refusal where
  /-- The instruction has no meaning in this model yet. Raised by exec's arm alone; safe. -/
  | notModelled (mnemonic : String)
  /-- OPEN with a depth outside `1 .. MAX_DEPTH` or a family not in `FAMILIES`, which R180 says cannot be expressed.
  Raised by OPEN; safe. -/
  | notExpressible
  deriving DecidableEq, Repr

/-- R5: the parameters of the machine after reset: the spec's default where it states one (`MAX_WAIT`,
`DIRECT_UPDATE`, `LATCH_IDLE`, `FAMILIES`), a constant without a value elsewhere. -/
def resetParams : Params :=
  { maxDepth := Config.maxDepthLessOne + 1, maxWait := none, directUpdate := false, latchIdle := .high
    families := [ref32, ref24] }

/-- R32: the machine right after reset: the transport holds nothing and nothing has been presented. -/
def State.reset : State :=
  { sessionValid := false, cfg := ⟨0, ⟨none, none, none, none, none, none⟩, 0, 0, 0⟩, fsm := .idle, mode := .direct
    rdback := false, n := 0, subIdx := 0, frame := List.replicate resetParams.maxDepth 0
    ids := List.replicate resetParams.maxDepth 0, rx := [], latchReq := false, failed := false
    err := .unsupportedField, lineSync := .unknown, lineLatch := .unknown, lineReset := .unknown, result := .ok
    pc := .idle, res := .ok, opening := none, par := resetParams, transport := ⟨[], [], 0, []⟩, inbox := [], lineAnswers := []
    draws := 0, codecOut := .none, trace := [], opStart := 0, abandonedAt := none }

end Sys2Proof.Machine
end

