-- ==== Sys2Proof/Machine/Flags.lean ====
section
/-! DEFINITION. The flag pair `FAIL` and `ERR` (R16, R203) and the names a transport's answer takes by mode (R199). -/

namespace Sys2Proof.Machine

/-- R16, R203: a failing step sets `FAIL` and `ERR`; once an error is recorded a later one does not replace it. -/
def recordError (e : Error) (s : State) : State :=
  if s.failed then s else { s with failed := true, err := e }

/-- R199: a `Submit` that answered `QueueFull`. -/
def submitError : Mode → Error
  | .direct => .transportBusy
  | .pipelined => .queueFull

/-- R199: an `AwaitAll` that answered `TransportFailure`. -/
def awaitError : Mode → Error
  | .direct => .transportFailure
  | .pipelined => .batchPartialFailure

/-- R143 W1: what an answer of `AwaitAll` records. -/
def recordAwait (a : AwaitRes) (s : State) : State :=
  match a with
  | .ok => s
  | .transportFailure => recordError (awaitError s.mode) s
  | .timeout => recordError .timeout s

end Sys2Proof.Machine
end

