-- ==== Sys2Proof/Machine/Ops.lean ====
section
/-! DEFINITION. The operations every meaning is made of: the trace, the control lines (R45, R46), the transport's port
(R42, R43, R61), and the one way an operation ends or is refused with an error, which is what this block has in place
of an exception (R6, R204). -/

namespace Sys2Proof.Machine

/-- R41: the event joins the trace. -/
def emit (e : Event) (s : State) : State := { s with trace := s.trace ++ [e] }

/-- R24: `LINE[r]`. -/
def getLine (r : CtlLine) (s : State) : LineState :=
  match r with
  | .sync => s.lineSync
  | .latch => s.lineLatch
  | .reset => s.lineReset

/-- R24: `LINE[r] <- v`. -/
def putLine (r : CtlLine) (v : LineState) (s : State) : State :=
  match r with
  | .sync => { s with lineSync := v }
  | .latch => { s with lineLatch := v }
  | .reset => { s with lineReset := v }

/-- R9, R46: the idle level of a control line. -/
def idleLevel (p : Params) : CtlLine → Level
  | .sync => .high
  | .latch => p.latchIdle
  | .reset => .high

/-- R24, R45: what a line register holds after a call that answered `ok`. -/
def lineAfter (ok : Bool) (v : Level) : LineState := if ok then .known v else .unknown

/-- R45, R46: the line driver's answer, a draw: the next one listed, else a constant without a value. -/
def takeLineAnswer (s : State) : Bool × State :=
  match s.lineAnswers with
  | b :: bs => (b, { s with lineAnswers := bs })
  | [] => (Config.lineAnswer s.draws, { s with draws := s.draws + 1 })

/-- R45 `SetLine(r, v)` under a pin assignment: whether it succeeded, and the state after. -/
def setLine (pins : Pins) (r : CtlLine) (v : Level) (s : State) : Bool × State :=
  match pins.ctl r with
  | none => (true, s)
  | some _ =>
    let a := takeLineAnswer s
    (a.1, emit (.line r v a.1) (putLine r (lineAfter a.1 v) a.2))

/-- R46 `PulseLine(r, d)` under a pin assignment: whether it succeeded, and the state after. -/
def pulseLine (pins : Pins) (r : CtlLine) (d : Nat) (s : State) : Bool × State :=
  match pins.ctl r with
  | none => (true, s)
  | some _ =>
    let a := takeLineAnswer s
    (a.1, emit (.pulse r d a.1) (putLine r (lineAfter a.1 (idleLevel s.par r)) a.2))

/-- R42: the depth the platform configured a handle's queue with. -/
def queueDepth (t : Transport) (h : Nat) : Nat :=
  match t.depths.find? fun p => p.1 == h with
  | some p => p.2
  | none => Config.queueDepth h

/-- R44: how many transfers of a handle are outstanding. -/
def outstandingOf (t : Transport) (h : Nat) : Nat := (t.outstanding.filter fun x => x.handle == h).length

/-- R42: the transport refuses a submission that would make the outstanding count exceed the depth. -/
def queueFull (t : Transport) (h : Nat) : Bool := decide (queueDepth t h ≤ outstandingOf t h)

/-- R42: the transfer enqueued under a fresh id. -/
def enqueue (t : Transport) (h : Nat) (f nbits : Nat) : Transport :=
  { t with outstanding := t.outstanding ++ [⟨t.nextId, h, frameBytes nbits f, nbits⟩], nextId := t.nextId + 1 }

/-- R42 `Submit(h, f, n)`: the id, or none where the answer is `QueueFull`, and the state after. -/
def submit (h : Nat) (f nbits : Nat) (s : State) : Option Nat × State :=
  if queueFull s.transport h then (none, emit .subFull s)
  else (some s.transport.nextId,
    emit (.sub s.transport.nextId f nbits) { s with transport := enqueue s.transport h f nbits })

/-- R143 W1: `[ID[0], .., ID[SUB_IDX-1]]`. -/
def awaitedIds (s : State) : List Nat := s.ids.take s.subIdx

/-- The unobserved completion of a transfer, if it has completed. -/
def completionOf? (t : Transport) (id : Nat) : Option Completion := t.completions.find? fun c => c.id == id

/-- R43: the completions of all the ids named, none while one of them has not completed. -/
def completionsOf? (t : Transport) : List Nat → Option (List Completion)
  | [] => some []
  | id :: ids =>
    match completionOf? t id, completionsOf? t ids with
    | some c, some cs => some (c :: cs)
    | _, _ => none

/-- R43, R203: whether one of the ids named has completed with failure. -/
def anyCompletedFailed (t : Transport) (ids : List Nat) : Bool :=
  ids.any fun id => match completionOf? t id with
    | some c => !c.ok
    | none => false

/-- R208: the completions an `AwaitAll` named are cleared by its return. -/
def clearCompletions (t : Transport) (ids : List Nat) : Transport :=
  { t with completions := t.completions.filter fun c => !(ids.contains c.id) }

/-- R43: `AwaitAll` returns `a` for the ids the engine names: the event, the completions cleared, and what the answer
records in `FAIL` and `ERR`. -/
def awaitReturns (a : AwaitRes) (s : State) : State :=
  recordAwait a
    (emit (.await (awaitedIds s) a) { s with transport := clearCompletions s.transport (awaitedIds s) })

/-- R61: the transport after the completion of an outstanding transfer. -/
def completeTransfer (t : Transport) (x : Transfer) (ok : Bool) (rx : Nat) : Transport :=
  { t with
    outstanding := t.outstanding.filter fun y => !(y.id == x.id)
    completions := t.completions ++ [⟨x.id, ok, frameBytes x.nbits (rx % 2 ^ x.nbits)⟩] }

/-- R61 `Perf(id, ok)`: the transport performs an outstanding transfer; without an outstanding transfer of that id
there is no such step. -/
def perform (id : Nat) (ok : Bool) (rx : Nat) (s : State) : State :=
  match s.transport.outstanding.find? fun x => x.id == id with
  | none => s
  | some x => emit (.perf id ok) { s with transport := completeTransfer s.transport x ok rx }

/-- R142, R158, R185: an operation is refused: `RESULT <- Err(e)`, a `Ret` event, and nothing else. -/
def refuseOp (op : HostOp) (e : Error) (s : State) : State :=
  emit (.ret op (.err e)) { s with result := .err e }

/-- R18: the host operation in flight. -/
def opInFlight (s : State) : HostOp :=
  match s.mode, s.rdback with
  | .pipelined, _ => .writeBatchOp
  | .direct, false => .writeOp
  | .direct, true => .readOp

/-- R143 C3 and F1, R204: the operation in flight ends: `FSM <- Idle`, `RESULT <- r`. With an error this is all that
"taking an exception" is in this block: no state is saved and no vector is taken. -/
def finishOp (r : OpResult) (s : State) : State :=
  emit (.ret (opInFlight s) r) { s with fsm := .idle, pc := .idle, result := r }

end Sys2Proof.Machine
end

