-- ==== Sys2Proof/Machine/Sequencer.lean ====
section
/-! DEFINITION. The Synchronization Sequencer's primitives (R120 to R126). LINES_IDLE is two engine steps, one for each
of its line calls (R143); they are `linesIdleSync` and `linesIdleLatch`. -/

namespace Sys2Proof.Machine

/-- R122 SYNC_ASSERT. -/
def syncAssert (s : State) : Bool × State := setLine s.cfg.pins .sync .low s

/-- R123 SYNC_DEASSERT. -/
def syncDeassert (s : State) : Bool × State := setLine s.cfg.pins .sync .high s

/-- R124 LATCH_PULSE. -/
def latchPulse (T : FamilyTable) (s : State) : Bool × State := pulseLine s.cfg.pins .latch T.tLatchHoldMin s

/-- R125 RESET_PULSE, under the pin assignment OPEN is given (R180). -/
def resetPulse (T : FamilyTable) (pins : Pins) (s : State) : Bool × State := pulseLine pins .reset T.tResetLowMin s

/-- R126 LINES_IDLE, the first call; its answer is ignored. -/
def linesIdleSync (s : State) : State := (setLine s.cfg.pins .sync .high s).2

/-- R126 LINES_IDLE, the second call; its answer is ignored. -/
def linesIdleLatch (s : State) : State := (setLine s.cfg.pins .latch s.par.latchIdle s).2

end Sys2Proof.Machine
end

