-- ==== Sys2Proof/Machine/Engine.lean ====
section
/-! DEFINITION. The Transfer Engine: admission (R142), the engine's steps, which are the labelled lines of R143
(R159), and the meanings of WRITE, WRITE_BATCH and READ, each of which is the admission of that operation; the engine's
steps then carry it to its end. -/

namespace Sys2Proof.Machine

/-- What one step of this machine answers. -/
abbrev StepOutcome := Host.Outcome State Fault Refusal

/-- The table entry of `CFG.FAMILY` handed to `k`. -/
def withTable (s : State) (k : FamilyTable → StepOutcome) : StepOutcome :=
  match s.par.table? s.cfg.family with
  | some T => k T
  | none => .fault .noSuchFamily

/-- R143 A6: the engine registers are loaded and `Submitting` is entered. -/
def loadEngine (m : Mode) (rdback : Bool) (fs : List Nat) (latchReq : Bool) (s : State) : State :=
  { s with
    frame := fs ++ s.frame.drop fs.length, n := fs.length, subIdx := 0, failed := false, latchReq := latchReq
    mode := m, rdback := rdback, fsm := .submitting, pc := .s1, opStart := s.trace.length }

/-- R143 A3: READ is refused where the family or the pins have no read-back. -/
def readBackMissing (T : FamilyTable) (rdback : Bool) (s : State) : Bool :=
  rdback && (!T.bidirectional || s.cfg.pins.din.isNone)

/-- R143 A4: a batch longer than the pipeline depth. -/
def batchTooLong (m : Mode) (words : List RegisterWord) (s : State) : Bool :=
  decide (m = .pipelined) && decide (s.cfg.depth < words.length)

/-- R142, R143 A1 to A6: admission, one atomic step. -/
def admission (op : HostOp) (m : Mode) (rdback : Bool) (words : List RegisterWord) (latchReq : Bool) (s : State) :
    StepOutcome :=
  if s.sessionValid = false then .next (refuseOp op .noSession s)
  else if s.fsm ≠ .idle then .next (refuseOp op .transportBusy s)
  else withTable s fun T =>
    if readBackMissing T rdback s then .next (refuseOp op .unsupportedField s)
    else if batchTooLong m words s then .next (refuseOp op .queueFull s)
    else
      match encodeAll T words with
      | .error e => .next (refuseOp op e s)
      | .ok fs => .next (loadEngine m rdback fs latchReq s)

/-- WRITE, R140. -/
def execWrite (w : RegisterWord) (s : State) : StepOutcome :=
  admission .writeOp .direct false [w] s.par.directUpdate s

/-- WRITE_BATCH, R141. -/
def execWriteBatch (ws : List RegisterWord) (latchAtEnd : Bool) (s : State) : StepOutcome :=
  admission .writeBatchOp .pipelined false ws latchAtEnd s

/-- READ, R155. -/
def execRead (w : RegisterWord) (s : State) : StepOutcome := admission .readOp .direct true [w] false s

/-- A line call's failure recorded (R127). -/
def recordLine (a : Bool × State) : State := if a.1 then a.2 else recordError .lineSequencingFailed a.2

/-- R143 S1. -/
def stepS1 (s : State) : State :=
  match s.mode with
  | .direct => { recordLine (syncAssert s) with pc := .s2 }
  | .pipelined => { s with pc := .s2 }

/-- R143 S2: the transport's answer to the submission of slot `SUB_IDX`. -/
def afterSubmit (a : Option Nat × State) : State :=
  match a.1 with
  | none => recordError (submitError a.2.mode) a.2
  | some id => { a.2 with ids := a.2.ids.set a.2.subIdx id, subIdx := a.2.subIdx + 1 }

/-- R143 S2 and S3: one frame is submitted, or `Submitting` is left. -/
def stepS2 (s : State) : StepOutcome :=
  if s.subIdx < s.n ∧ s.failed = false then
    withTable s fun T =>
      match s.frame[s.subIdx]? with
      | some f => .next (afterSubmit (submit s.cfg.handle f T.W s))
      | none => .fault .noSuchSlot
  else .next { s with fsm := .awaitingCompletion, pc := .w1 }

/-- R143 W1: the answer of an `AwaitAll` whose transfers have all completed (R43). -/
def awaitAnswer (cs : List Completion) : AwaitRes := if cs.all (·.ok) then .ok else .transportFailure

/-- R143 W1: the bytes received during transfer `ID[0]`, on success of a READ (R156). -/
def takeRx (a : AwaitRes) (cs : List Completion) (s : State) : State :=
  match a, s.rdback, cs with
  | .ok, true, c :: _ => { s with rx := c.rx }
  | _, _, _ => s

/-- R143 W1: no `AwaitAll` where nothing was submitted; else it returns once every transfer named has completed, and
until then the engine waits (R147). -/
def stepW1 (s : State) : State :=
  if s.subIdx = 0 then { s with pc := .w2 }
  else
    match completionsOf? s.transport (awaitedIds s) with
    | none => s
    | some cs => { takeRx (awaitAnswer cs) cs (awaitReturns (awaitAnswer cs) s) with pc := .w2 }

/-- R143 W2. -/
def stepW2 (s : State) : State :=
  match s.mode with
  | .direct => { recordLine (syncDeassert s) with pc := .w3 }
  | .pipelined => { s with pc := .w3 }

/-- R143 W3. -/
def stepW3 (s : State) : State :=
  if s.failed then { s with fsm := .anyFailed, pc := .f1 } else { s with fsm := .allConfirmed, pc := .c1 }

/-- R143 C1. -/
def stepC1 (s : State) : State :=
  if s.latchReq then { s with res := .ok, fsm := .latching, pc := .latch } else { s with res := .ok, pc := .c2 }

/-- R143, state `Latching`. A failed pulse becomes the operation's result (R143) and is recorded like every failed line
call (R127). -/
def stepLatch (T : FamilyTable) (s : State) : State :=
  let a := latchPulse T s
  if a.1 then { a.2 with pc := .c2 }
  else { recordError .lineSequencingFailed a.2 with res := .err .lineSequencingFailed, pc := .c2 }

/-- R143 C2: DECODE's answer as a result. -/
def decodeResult (T : FamilyTable) (b : List Byte) : OpResult :=
  match decodeWord T b with
  | .ok w => .okWord w
  | .error e => .err e

/-- R143 C2. -/
def stepC2 (T : FamilyTable) (s : State) : State :=
  if s.rdback = true ∧ s.res = .ok then { s with res := decodeResult T s.rx, pc := .c3 } else { s with pc := .c3 }

/-- R159: one step of the engine; idle, it does nothing. -/
def engineStep (s : State) : StepOutcome :=
  if s.fsm = .idle then .next s
  else
    match s.pc with
    | .idle => .next s
    | .s1 => .next (stepS1 s)
    | .s2 => stepS2 s
    | .w1 => .next (stepW1 s)
    | .w1Sync => .next { linesIdleSync s with pc := .w1Latch }
    | .w1Latch => .next { linesIdleLatch s with pc := .w3 }
    | .w2 => .next (stepW2 s)
    | .w3 => .next (stepW3 s)
    | .c1 => .next (stepC1 s)
    | .latch => withTable s fun T => .next (stepLatch T s)
    | .c2 => withTable s fun T => .next (stepC2 T s)
    | .c3 => .next (finishOp s.res s)
    | .f1 => .next (finishOp (.err s.err) s)

/-- R43, R210: whether `AwaitAll` may answer before every transfer named has completed: it is pending, `MAX_WAIT` is
not `none`, and a transfer named is outstanding. -/
def mayExpire (s : State) : Bool :=
  decide (s.fsm ≠ .idle) && decide (s.pc = .w1) && decide (s.subIdx ≠ 0) && s.par.maxWait.isSome &&
    (completionsOf? s.transport (awaitedIds s)).isNone

/-- R43, R200, R203: the maximum wait runs out. The answer is `Timeout`, or `TransportFailure` if a transfer named has
failed and the transport so chooses. -/
def waitExpires (preferFailure : Bool) (s : State) : State :=
  if mayExpire s then
    if preferFailure && anyCompletedFailed s.transport (awaitedIds s) then
      { awaitReturns .transportFailure s with pc := .w2 }
    else { awaitReturns .timeout s with pc := .w1Sync }
  else s

end Sys2Proof.Machine
end

