-- ==== Sys2Proof/Machine/Frames.lean ====
section
/-! DEFINITION. The frame commands of the two reference families (R106 to R110): what the block does with one is to
pack it (R101). The codec writes no register and makes no event (R100); what it answers is seen in `codecOut`. -/

namespace Sys2Proof.Machine

/-- R100, R101: ENCODE is evaluated on a word, and its answer shown. -/
def evalEncode (T : FamilyTable) (w : RegisterWord) (s : State) : State :=
  match encodeWord T w with
  | .ok b => { s with codecOut := .encoded w b }
  | .error e => { s with codecOut := .error e }

/-- REF32.WriteOnly, R106. -/
def execRef32WriteOnly (dir : Direction) (ch : Channel) (data : Nat) (mode : Option Nat) (s : State) : StepOutcome :=
  .next (evalEncode ref32 ⟨dir, .writeOnly, ch, data, mode⟩ s)

/-- REF32.WriteAndUpdate, R107. -/
def execRef32WriteAndUpdate (dir : Direction) (ch : Channel) (data : Nat) (mode : Option Nat) (s : State) :
    StepOutcome :=
  .next (evalEncode ref32 ⟨dir, .writeAndUpdate, ch, data, mode⟩ s)

/-- REF32.UpdateOnly, R108. -/
def execRef32UpdateOnly (dir : Direction) (ch : Channel) (data : Nat) (mode : Option Nat) (s : State) : StepOutcome :=
  .next (evalEncode ref32 ⟨dir, .updateOnly, ch, data, mode⟩ s)

/-- REF32.SpanMode, R109. -/
def execRef32SpanMode (dir : Direction) (ch : Channel) (data : Nat) (mode : Option Nat) (s : State) : StepOutcome :=
  .next (evalEncode ref32 ⟨dir, .spanMode, ch, data, mode⟩ s)

/-- REF32.PowerMode, R110. -/
def execRef32PowerMode (dir : Direction) (ch : Channel) (data : Nat) (mode : Option Nat) (s : State) : StepOutcome :=
  .next (evalEncode ref32 ⟨dir, .powerMode, ch, data, mode⟩ s)

/-- REF24.WriteOnly, R106. -/
def execRef24WriteOnly (dir : Direction) (ch : Channel) (data : Nat) (mode : Option Nat) (s : State) : StepOutcome :=
  .next (evalEncode ref24 ⟨dir, .writeOnly, ch, data, mode⟩ s)

/-- REF24.WriteAndUpdate, R107. -/
def execRef24WriteAndUpdate (dir : Direction) (ch : Channel) (data : Nat) (mode : Option Nat) (s : State) :
    StepOutcome :=
  .next (evalEncode ref24 ⟨dir, .writeAndUpdate, ch, data, mode⟩ s)

/-- REF24.UpdateOnly, R108. -/
def execRef24UpdateOnly (dir : Direction) (ch : Channel) (data : Nat) (mode : Option Nat) (s : State) : StepOutcome :=
  .next (evalEncode ref24 ⟨dir, .updateOnly, ch, data, mode⟩ s)

end Sys2Proof.Machine
end

