-- ==== Sys2Proof/Machine/Session.lean ====
section
/-! DEFINITION. The Device Session: OPEN (R180). -/

namespace Sys2Proof.Machine

/-- R180: the operands OPEN's types admit: a depth of `1 .. MAX_DEPTH` (the family is looked up). -/
def depthExpressible (cfg : OpenCfg) (s : State) : Bool :=
  decide (1 ≤ cfg.pipelineDepth) && decide (cfg.pipelineDepth ≤ s.par.maxDepth)

/-- R180 O2, R181: a mandatory role is unassigned. -/
def pinMissing (T : FamilyTable) (pins : Pins) : Bool := T.mandatoryRoles.any fun r => (pins.get r).isNone

/-- R24: what a line register holds when OPEN has assigned the roles: a role without a line is `Unknown`. -/
def keepAssigned (line : Option Nat) (v : LineState) : LineState := if line.isSome then v else .unknown

/-- R180 O4, with R184's line registers. -/
def establish (h : Nat) (cfg : OpenCfg) (s : State) : State :=
  emit (.ret .openOp .ok)
    { s with
      cfg := ⟨cfg.deviceFamily, cfg.pins, h, cfg.pipelineDepth, cfg.clockFreq⟩, sessionValid := true, result := .ok
      lineSync := keepAssigned cfg.pins.sync s.lineSync, lineLatch := keepAssigned cfg.pins.latch s.lineLatch
      lineReset := keepAssigned cfg.pins.reset s.lineReset, opening := none }

/-- R180 O3: after a line call OPEN goes on at its next line, or, where the call failed, at its return. -/
def openNext (o : Opening) (next : OpenLine) (a : Bool × State) : State :=
  { a.2 with opening := some { o with line := if a.1 then next else .failed } }

/-- R180 O3: RESET_PULSE, where the family asks for it. -/
def openPulse (T : FamilyTable) (pins : Pins) (s : State) : Bool × State :=
  if T.powerupReset then resetPulse T pins s else (true, s)

/-- R180 O3, O4, R183: one line of an OPEN in progress, its return a line of its own (R185); the environment can act
between two of them (R55, R61, R206). -/
def openStep (o : Opening) (s : State) : StepOutcome :=
  match o.line with
  | .sync => .next (openNext o .latch (setLine o.cfg.pins .sync .high s))
  | .latch => .next (openNext o .reset (setLine o.cfg.pins .latch s.par.latchIdle s))
  | .reset => .next (openNext o .pulse (setLine o.cfg.pins .reset .high s))
  | .pulse =>
    match s.par.table? o.cfg.deviceFamily with
    | some T => .next (openNext o .done (openPulse T o.cfg.pins s))
    | none => .fault .noSuchFamily
  | .done => .next (establish o.handle o.cfg s)
  | .failed => .next (refuseOp .openOp .lineSequencingFailed { s with opening := none })

/-- R180 O2, in the table entry the operand selects; the lines of O3 and O4 are the steps after it. -/
def beginOpen (T : FamilyTable) (h : Nat) (cfg : OpenCfg) (s : State) : State :=
  if pinMissing T cfg.pins then refuseOp .openOp .missingPin s else { s with opening := some ⟨h, cfg, .sync⟩ }

/-- OPEN, R180. The session check O1 reads no operand and comes first; an OPEN presented before the one in progress has
returned is answered `TransportBusy` too (R229). -/
def execOpen (h : Nat) (cfg : OpenCfg) (s : State) : StepOutcome :=
  if s.sessionValid || s.opening.isSome then .next (refuseOp .openOp .transportBusy s)
  else
    match s.par.table? cfg.deviceFamily with
    | none => .refused .notExpressible
    | some T => if depthExpressible cfg s then .next (beginOpen T h cfg s) else .refused .notExpressible

end Sys2Proof.Machine
end

