-- ==== Sys2Proof/Machine/Dispatch.lean ====
section
/-! DEFINITION. One arm for each instruction. -/

namespace Sys2Proof.Machine

def exec (i : Instr) (s : State) : Host.Outcome State Fault Refusal :=
  match i with
  | .ref32WriteOnly d c x m => Sys2Proof.Machine.execRef32WriteOnly d c x m s
  | .ref32WriteAndUpdate d c x m => Sys2Proof.Machine.execRef32WriteAndUpdate d c x m s
  | .ref32UpdateOnly d c x m => Sys2Proof.Machine.execRef32UpdateOnly d c x m s
  | .ref32SpanMode d c x m => Sys2Proof.Machine.execRef32SpanMode d c x m s
  | .ref32PowerMode d c x m => Sys2Proof.Machine.execRef32PowerMode d c x m s
  | .ref24WriteOnly d c x m => Sys2Proof.Machine.execRef24WriteOnly d c x m s
  | .ref24WriteAndUpdate d c x m => Sys2Proof.Machine.execRef24WriteAndUpdate d c x m s
  | .ref24UpdateOnly d c x m => Sys2Proof.Machine.execRef24UpdateOnly d c x m s
  | .hostOpen h cfg => Sys2Proof.Machine.execOpen h cfg s
  | .hostWrite w => Sys2Proof.Machine.execWrite w s
  | .hostWriteBatch ws l => Sys2Proof.Machine.execWriteBatch ws l s
  | .hostRead w => Sys2Proof.Machine.execRead w s

end Sys2Proof.Machine
end

