-- ==== Sys2Proof/Machine/Environment.lean ====
section
/-! DEFINITION. What comes from outside: the moves of the environment and the engine between presentations (R61, R159),
the reset input (R220), and a presentation that selects no operation (R85) or is no frame (R104). -/

namespace Sys2Proof.Machine

/-- R53: the block's one sequential agent moves: the next line of the OPEN in progress (R180), else of the engine. -/
def blockStep (s : State) : StepOutcome :=
  match s.opening with
  | some o => openStep o s
  | none => engineStep s

/-- R61, R143, R159: one move. -/
def envStep (m : EnvMove) (s : State) : StepOutcome :=
  match m with
  | .run => blockStep s
  | .perf id ok rx => .next (perform id ok rx s)
  | .expire preferFailure => .next (waitExpires preferFailure s)

/-- R153: an operation has been admitted and has not returned: the engine's, or OPEN. -/
def operationInFlight (s : State) : Bool := decide (s.fsm ≠ .idle) || s.opening.isSome

/-- R220 to R222: the reset input. The block's registers take their reset values, those R10 leaves unspecified among
them (assumption 1); the transport and the trace keep what they hold, and no event is produced. -/
def hardwareReset (s : State) : State :=
  { s with
    sessionValid := false, cfg := State.reset.cfg, fsm := .idle, mode := State.reset.mode
    rdback := State.reset.rdback, n := State.reset.n, subIdx := State.reset.subIdx
    frame := List.replicate s.par.maxDepth 0, ids := List.replicate s.par.maxDepth 0, rx := State.reset.rx
    latchReq := State.reset.latchReq, failed := State.reset.failed, err := State.reset.err, lineSync := .unknown
    lineLatch := .unknown, lineReset := .unknown, result := State.reset.result, pc := .idle
    res := State.reset.res, opening := none
    abandonedAt := if operationInFlight s then some s.trace.length else s.abandonedAt }

/-- R85: a code that selects no operation: `RESULT <- Err(UnsupportedField)` and nothing else. -/
def unassignedOp (s : State) : State := { s with result := .err .unsupportedField }

/-- R104: a frame DECODE does not accept. -/
def malformedWord (s : State) : State := { s with codecOut := .error .malformedFrame }

end Sys2Proof.Machine
end

