-- ==== Sys2Proof/Machine/Step.lean ====
section
/-! DEFINITION. One step of the machine: the next input is taken, and where none is listed the environment moves. -/

namespace Sys2Proof.Machine

/-- A presentation is decoded and run. -/
def present (w : PortWord) (s : State) : Host.Outcome State Fault Refusal :=
  match decode w with
  | .instr i => exec i s
  | .unassigned => .next (unassignedOp s)
  | .malformed => .next (malformedWord s)

/-- An input acts on the machine. -/
def deliver (x : Input) (s : State) : Host.Outcome State Fault Refusal :=
  match x with
  | .port w => present w s
  | .move m => envStep m s
  | .reset => .next (hardwareReset s)

/-- One step: the next input acts; where the state lists none, a move drawn from Config does (R61, R159). -/
def step (s : State) : Host.Outcome State Fault Refusal :=
  match s.inbox with
  | x :: xs => deliver x { s with inbox := xs }
  | [] => envStep (Config.envMove s.draws) { s with draws := s.draws + 1 }

/-- The instruction whose bits are `w`, numbered as spec/opcode_table.json numbers them, presented next. -/
def State.withFetchWord (s : State) (nbits w : Nat) : State :=
  { s with inbox := .port (tableWord nbits w) :: s.inbox }

end Sys2Proof.Machine
end

