-- ==== Sys2Proof/Safety.lean ====
section
/-! DEFINITION. What claims about runs are made of: the invariant of the machine's registers (`Inv`), the trace of the
operation in flight and what it must be (`OpInv`), the idle levels of the lines (`LineInv`), freshness of transaction
ids (`IdInv`), the transition relation of `FSM` (R160), and the end of a run (R239). -/

namespace Sys2Proof.Machine

/-! ### Registers -/

/-- The engine's line belongs to the state `FSM` is in (R143). -/
def pcFits (f : Fsm) (p : EngineLine) : Bool :=
  match f, p with
  | .idle, .idle => true
  | .submitting, .s1 => true
  | .submitting, .s2 => true
  | .awaitingCompletion, .w1 => true
  | .awaitingCompletion, .w1Sync => true
  | .awaitingCompletion, .w1Latch => true
  | .awaitingCompletion, .w2 => true
  | .awaitingCompletion, .w3 => true
  | .allConfirmed, .c1 => true
  | .allConfirmed, .c2 => true
  | .allConfirmed, .c3 => true
  | .latching, .latch => true
  | .latching, .c2 => true
  | .latching, .c3 => true
  | .anyFailed, .f1 => true
  | _, _ => false

/-- The table entry of the session. -/
def sessionTable? (s : State) : Option FamilyTable := s.par.table? s.cfg.family

/-- R20, R21: a session's configuration is one OPEN can have written. -/
structure SessionOk (s : State) : Prop where
  family : (sessionTable? s).isSome = true
  pins   : ∀ T, sessionTable? s = some T → pinMissing T s.cfg.pins = false
  depth  : 1 ≤ s.cfg.depth ∧ s.cfg.depth ≤ s.par.maxDepth

/-- R180: the operands of an OPEN in progress are ones its checks have passed, and there is no session yet. -/
structure OpeningOk (s : State) (o : Opening) : Prop where
  noSession : s.sessionValid = false
  family    : (s.par.table? o.cfg.deviceFamily).isSome = true
  pins      : ∀ T, s.par.table? o.cfg.deviceFamily = some T → pinMissing T o.cfg.pins = false
  depth     : 1 ≤ o.cfg.pipelineDepth ∧ o.cfg.pipelineDepth ≤ s.par.maxDepth

/-- R194 to R201: the errors a step of the engine records, by mode (R199). -/
def isEngineError (m : Mode) (e : Error) : Bool :=
  match m, e with
  | _, .lineSequencingFailed => true
  | _, .timeout => true
  | .direct, .transportBusy => true
  | .direct, .transportFailure => true
  | .pipelined, .queueFull => true
  | .pipelined, .batchPartialFailure => true
  | _, _ => false

/-- R127, R149: no step before the latch pulse has failed; a failure of the pulse itself is recorded in `Latching`. -/
def confirmedSoFar (s : State) : Prop := s.failed = false ∨ s.fsm = .latching

/-- R13, R15, R17, R18: the engine registers of an operation in flight. -/
structure FlightOk (s : State) : Prop where
  session   : s.sessionValid = true
  counts    : s.subIdx ≤ s.n ∧ s.n ≤ s.par.maxDepth
  direct    : s.mode = .direct → s.n = 1
  pipelined : s.mode = .pipelined → s.n ≤ s.cfg.depth ∧ s.rdback = false
  readback  : s.rdback = true → s.latchReq = false
  update    : s.mode = .direct → s.rdback = false → s.latchReq = s.par.directUpdate
  frames    : ∀ T, sessionTable? s = some T → ∀ f ∈ s.frame.take s.n, f < 2 ^ T.W
  fresh     : s.pc = .s1 → s.subIdx = 0 ∧ s.failed = false
  complete  : s.fsm ≠ .submitting → confirmedSoFar s → s.subIdx = s.n
  timedOut  : s.pc = .w1Sync ∨ s.pc = .w1Latch → s.failed = true
  confirmed : s.fsm = .allConfirmed ∨ s.pc = .latch → s.failed = false
  latching  : s.fsm = .latching → s.latchReq = true
  notLatch  : s.fsm = .allConfirmed → s.pc ≠ .c1 → s.latchReq = false
  failing   : s.fsm = .anyFailed → s.failed = true
  result    : s.pc = .latch ∨ (s.fsm = .allConfirmed ∧ s.pc = .c2) → s.res = .ok
  latchRes  : s.fsm = .latching → s.pc = .c2 ∨ s.pc = .c3 →
    (s.failed = false ∧ s.res = .ok) ∨
      (s.failed = true ∧ s.err = .lineSequencingFailed ∧ s.res = .err .lineSequencingFailed)
  errors    : s.failed = true → isEngineError s.mode s.err = true
  decoded   : s.fsm = .allConfirmed → s.pc = .c3 → ∀ e, s.res = .err e → s.rdback = true ∧ e = .malformedFrame

/-- The lines of R143 at which the transfers of the operation are not yet confirmed. -/
def beforeAwait (p : EngineLine) : Bool :=
  match p with
  | .s1 => true
  | .s2 => true
  | .w1 => true
  | _ => false

/-- R12, R43: a transfer the engine will wait for is held by the transport, outstanding or completed, and moves one
whole frame of the session's family (R49). -/
def heldFor (T : FamilyTable) (t : Transport) (id : Nat) : Prop :=
  (∃ x ∈ t.outstanding, x.id = id ∧ x.nbits = T.W) ∨ (∃ c ∈ t.completions, c.id = id ∧ c.rx.length = T.L)

/-- R42: the transport's ids are distinct and older than the next fresh one. -/
structure TransportOk (t : Transport) : Prop where
  distinct : (t.outstanding.map (·.id) ++ t.completions.map (·.id)).Nodup
  older    : ∀ id ∈ t.outstanding.map (·.id) ++ t.completions.map (·.id), id < t.nextId

/-- The invariant of the machine's registers: every step keeps it, and no step faults in a state that meets it. -/
structure Inv (s : State) : Prop where
  par       : s.par.wf = true
  frameLen  : s.frame.length = s.par.maxDepth
  idsLen    : s.ids.length = s.par.maxDepth
  pc        : pcFits s.fsm s.pc = true
  session   : s.sessionValid = true → SessionOk s
  opening   : ∀ o, s.opening = some o → OpeningOk s o
  unassigned : s.sessionValid = true → ∀ r, s.cfg.pins.ctl r = none → getLine r s = .unknown
  flight    : s.fsm ≠ .idle → FlightOk s
  transport : TransportOk s.transport
  held      : s.fsm ≠ .idle → beforeAwait s.pc = true →
    ∀ T, sessionTable? s = some T → ∀ id ∈ awaitedIds s, heldFor T s.transport id
  rxLen     : s.fsm ≠ .idle → beforeAwait s.pc = false → s.rdback = true → s.failed = false →
    ∀ T, sessionTable? s = some T → s.rx.length = T.L

/-! ### The trace of the operation in flight -/

/-- The trace since the operation in flight, or the last one, was admitted. -/
def opEvents (s : State) : List Event := s.trace.drop s.opStart

/-- An event the engine makes by one of its own primitives: neither an environment step nor a `Ret`. -/
def isEngineEvent : Event → Bool
  | .line _ _ _ => true
  | .pulse _ _ _ => true
  | .sub _ _ _ => true
  | .subFull => true
  | .await _ _ => true
  | .ret _ _ => false
  | .perf _ _ => false

/-- R130: a pulse of the latch. -/
def isLatchPulse : Event → Bool
  | .pulse .latch _ _ => true
  | _ => false

/-- R130: a pulse of the reset line. -/
def isResetPulse : Event → Bool
  | .pulse .reset _ _ => true
  | _ => false

/-- A line call the driver answered with failure (R127). -/
def isLineFailure : Event → Bool
  | .line _ _ ok => !ok
  | .pulse _ _ ok => !ok
  | _ => false

/-- R130. -/
def latchPulses (tr : List Event) : Nat := tr.countP isLatchPulse

/-- R130. -/
def resetPulses (tr : List Event) : Nat := tr.countP isResetPulse

/-- R161: the frame values of the `Sub` events, in order. -/
def subFrames (tr : List Event) : List Nat :=
  tr.filterMap fun e => match e with
    | .sub _ f _ => some f
    | _ => none

/-- The ids of the `Sub` events, in order. -/
def subIds (tr : List Event) : List Nat :=
  tr.filterMap fun e => match e with
    | .sub id _ _ => some id
    | _ => none

/-- The events of an operation's engine. -/
def engineEvents (s : State) : List Event := (opEvents s).filter isEngineEvent

/-- The engine has passed line W1 without a timeout. -/
def pastW1 (p : EngineLine) : Bool :=
  match p with
  | .w2 | .w3 | .c1 | .latch | .c2 | .c3 => true
  | _ => false

/-- The engine has passed line W2 without a failure. -/
def pastW2 (p : EngineLine) : Bool :=
  match p with
  | .w3 | .c1 | .latch | .c2 | .c3 => true
  | _ => false

/-- R56, R58, R143: the engine's events of an operation none of whose steps before the latch pulse has failed, in their
order: SYNC low (Direct), the submissions in slot order, the one wait, SYNC high (Direct), and the one latch pulse. -/
def expectedEvents (T : FamilyTable) (s : State) : List Event :=
  (if s.mode = .direct ∧ s.pc ≠ .s1 then [.line .sync .low true] else []) ++
  List.zipWith (fun id f => Event.sub id f T.W) (s.ids.take s.subIdx) (s.frame.take s.subIdx) ++
  (if pastW1 s.pc = true ∧ s.subIdx ≠ 0 then [.await (awaitedIds s) .ok] else []) ++
  (if s.mode = .direct ∧ pastW2 s.pc = true then [.line .sync .high true] else []) ++
  (if s.fsm = .latching ∧ s.pc ≠ .latch ∧ s.cfg.pins.latch.isSome = true then
    [.pulse .latch T.tLatchHoldMin (decide (s.res = .ok))] else [])

/-- What the trace of the operation in flight is (R54, R56, R58, R130, R161 to R163). -/
structure FlightTrace (s : State) : Prop where
  start     : s.opStart ≤ s.trace.length
  frames    : subFrames (opEvents s) = s.frame.take s.subIdx
  transfers : subIds (opEvents s) = awaitedIds s
  success   : confirmedSoFar s → ∀ T, sessionTable? s = some T → engineEvents s = expectedEvents T s
  performed : confirmedSoFar s → pastW1 s.pc = true → s.subIdx ≠ 0 →
    ∃ before after, s.trace = before ++ .await (awaitedIds s) .ok :: after ∧
      ∀ id ∈ awaitedIds s, .perf id true ∈ before
  failure   : ¬ confirmedSoFar s → latchPulses (opEvents s) = 0
  noReset   : resetPulses (opEvents s) = 0

/-- The trace invariant. -/
def OpInv (s : State) : Prop := s.fsm ≠ .idle → FlightTrace s

/-- The operation in flight ends by this step, with its own `Ret` (not by the reset input, which clears
`SESSION_VALID`). -/
structure OpEnds (s s' : State) : Prop where
  inFlight : s.fsm ≠ .idle
  steps    : step s = .next s'
  idle     : s'.fsm = .idle
  session  : s'.sessionValid = true

/-! ### Runs -/

/-- `k` steps of the machine, stopping at the first fault or refusal. -/
def runSteps (k : Nat) (s : State) : Host.Outcome State Fault Refusal := Sys2Proof.core.run k s

/-- `k` engine moves as inputs. -/
def runs (k : Nat) : List Input := List.replicate k (.move .run)

/-- R61: what the performances among some moves make of a state. -/
def afterPerfs (moves : List EnvMove) (s : State) : State :=
  moves.foldl (fun s m => match m with
    | .perf id ok rx => perform id ok rx s
    | _ => s) s

/-- R180 O3, R183: the events of the power-up sequence where every line call succeeds, in order; a call on an
unassigned role makes no event. -/
def openCalls (T : FamilyTable) (pins : Pins) (p : Params) : List Event :=
  (if pins.sync.isSome then [.line .sync .high true] else []) ++
  (if pins.latch.isSome then [.line .latch p.latchIdle true] else []) ++
  (if pins.reset.isSome then
    .line .reset .high true :: (if T.powerupReset then [.pulse .reset T.tResetLowMin true] else []) else [])

/-- The event of a line call, had the driver answered with failure. -/
def asFailed : Event → Event
  | .line r v _ => .line r v false
  | .pulse r d _ => .pulse r d false
  | e => e

/-- R24: what `LINE[r]` holds after an event. -/
def lineAfterEvent (p : Params) (r : CtlLine) (v : LineState) : Event → LineState
  | .line q l ok => if q = r then (if ok then .known l else .unknown) else v
  | .pulse q _ ok => if q = r then (if ok then .known (idleLevel p r) else .unknown) else v
  | _ => v

/-- R24: what `LINE[r]` holds after the events of a trace. -/
def lineAfterEvents (p : Params) (r : CtlLine) (v : LineState) (es : List Event) : LineState :=
  es.foldl (lineAfterEvent p r) v

/-- R142, R203: the error admission refuses with, by its order of checks; none where it admits. -/
def admissionRefusal (T : FamilyTable) (m : Mode) (rdback : Bool) (words : List RegisterWord) (s : State) :
    Option Error :=
  if s.sessionValid = false then some .noSession
  else if s.fsm ≠ .idle then some .transportBusy
  else if rdback = true ∧ (T.bidirectional = false ∨ s.cfg.pins.din = none) then some .unsupportedField
  else if m = .pipelined ∧ s.cfg.depth < words.length then some .queueFull
  else if words.all (representable T) = false then some .unsupportedField
  else none

/-- R142: what an operation's presentation must answer. -/
def AdmissionAnswers (T : FamilyTable) (op : HostOp) (m : Mode) (rdback : Bool) (words : List RegisterWord)
    (latchReq : Bool) (s : State) (out : Host.Outcome State Fault Refusal) : Prop :=
  match admissionRefusal T m rdback words s with
  | some e => out = .next { s with result := .err e, trace := s.trace ++ [.ret op (.err e)] }
  | none => ∃ fs : List Nat, words.map (encodeValue T) = fs.map .ok ∧
      out = .next { s with
        frame := fs ++ s.frame.drop fs.length, n := fs.length, subIdx := 0, failed := false, latchReq := latchReq
        mode := m, rdback := rdback, fsm := .submitting, pc := .s1, opStart := s.trace.length }

/-- R77: the mask column. -/
def ref32Mask : Command → Nat
  | .writeOnly | .writeAndUpdate | .updateOnly => 0x78FF0000
  | .spanMode | .powerMode => 0x78F00000

/-- R77: the match column. -/
def ref32Match : Command → Nat
  | .writeOnly => 0x00000000
  | .writeAndUpdate => 0x08000000
  | .updateOnly => 0x10000000
  | .spanMode => 0x18000000
  | .powerMode => 0x20000000

/-- R79: the match column; SpanMode and PowerMode do not exist in the family (R78). The mask is 0x73000F in every
row. -/
def ref24Match? : Command → Option Nat
  | .writeOnly => some 0x000000
  | .writeAndUpdate => some 0x100000
  | .updateOnly => some 0x200000
  | .spanMode | .powerMode => none

/-! ### Lines, ids, transitions, the end of a run -/

/-- The lines of R143 at which a Direct-mode operation holds SYNC low. -/
def syncHeldLow (s : State) : Bool :=
  decide (s.fsm ≠ .idle) && decide (s.mode = .direct) &&
    match s.pc with
    | .s2 | .w1 | .w1Sync | .w2 => true
    | _ => false

/-- R183: an OPEN in progress none of whose calls has failed has made the call of a line. -/
def Opening.madeCall (o : Opening) (r : CtlLine) : Bool :=
  match r, o.line with
  | _, .failed => false
  | .sync, .sync => false
  | .sync, _ => true
  | .latch, .sync | .latch, .latch => false
  | .latch, _ => true
  | .reset, .sync | .reset, .latch | .reset, .reset => false
  | .reset, _ => true

/-- R129 carried through an operation: while no line call of the whole trace has failed, the session's lines stand at
the levels the engine's position says, and the lines an OPEN in progress has driven at their idle levels. -/
def LineInv (s : State) : Prop :=
  s.trace.any isLineFailure = false →
    (s.sessionValid = true →
      s.lineSync = .known (if syncHeldLow s then .low else .high) ∧
      (s.cfg.pins.latch.isSome = true → s.lineLatch = .known s.par.latchIdle) ∧
      (s.cfg.pins.reset.isSome = true → s.lineReset = .known .high)) ∧
    (∀ o, s.opening = some o → ∀ r, o.madeCall r = true → (o.cfg.pins.ctl r).isSome = true →
      getLine r s = .known (idleLevel s.par r))

/-- R42: every id the transport has returned is older than the next fresh one. -/
def IdInv (s : State) : Prop := ∀ id ∈ subIds s.trace, id < s.transport.nextId

/-- A completion of the transfer `id` (R61). -/
def isPerfOf (id : Nat) : Event → Bool
  | .perf j _ => j == id
  | _ => false

/-- R61: how often a transfer was performed. -/
def perfCount (id : Nat) (tr : List Event) : Nat := tr.countP (isPerfOf id)

/-- R44, R61: no transfer is performed twice, none before it was submitted or while it is outstanding, and a completion
the transport holds is one that happened. -/
structure PerfInv (s : State) : Prop where
  once    : ∀ id, perfCount id s.trace ≤ 1
  pending : ∀ x ∈ s.transport.outstanding, perfCount x.id s.trace = 0
  unborn  : ∀ id, s.transport.nextId ≤ id → perfCount id s.trace = 0
  held    : ∀ c ∈ s.transport.completions, .perf c.id c.ok ∈ s.trace

/-- R44: no handle has more transfers outstanding than the platform configured its queue for. -/
def DepthInv (s : State) : Prop := ∀ h, outstandingOf s.transport h ≤ queueDepth s.transport h

/-- R160: the transitions of `FSM`, from a state to another. -/
def fsmMay : Fsm → Fsm → Bool
  | .idle, .submitting => true
  | .submitting, .awaitingCompletion => true
  | .awaitingCompletion, .allConfirmed => true
  | .awaitingCompletion, .anyFailed => true
  | .allConfirmed, .latching => true
  | .allConfirmed, .idle => true
  | .latching, .idle => true
  | .anyFailed, .idle => true
  | _, _ => false

/-- R33: the launch premise of a later claim. -/
structure CleanEntry (s : State) : Prop where
  quiescent : s.fsm = .idle
  assigned  : s.cfg.pins.sync.isSome = true ∧ s.cfg.pins.latch.isSome = true ∧ s.cfg.pins.reset.isSome = true
  sync      : s.lineSync = .known .high
  latch     : s.lineLatch = .known s.par.latchIdle
  reset     : s.lineReset = .known .high

/-- R160: the effect and the condition of each transition of `FSM` from a state to another. -/
structure FsmStep (s s' : State) : Prop where
  legal        : s'.fsm = s.fsm ∨ fsmMay s.fsm s'.fsm = true
  submitted    : s.fsm = .submitting → s'.fsm = .awaitingCompletion → s.subIdx = s.n ∨ s.failed = true
  confirmed    : s.fsm = .awaitingCompletion → s'.fsm = .allConfirmed → s.failed = false
  failing      : s.fsm = .awaitingCompletion → s'.fsm = .anyFailed → s.failed = true
  latching     : s.fsm = .allConfirmed → s'.fsm = .latching → s.latchReq = true
  unlatched    : s.fsm = .allConfirmed → s'.fsm = .idle → s.latchReq = false
  result       : s.fsm = .allConfirmed ∨ s.fsm = .latching → s'.fsm = .idle → s'.result = s.res
  failedResult : s.fsm = .anyFailed → s'.fsm = .idle → s'.result = .err s.err

/-- A host operation's return (R41). -/
def isRet : Event → Bool
  | .ret _ _ => true
  | _ => false

/-- R239: the run has ended: nothing is presented, no operation is in flight, the last operation's `Ret` has been
produced (an operation that the reset input abandoned never gets one, R222), and no transfer is outstanding. -/
structure RunEnded (s : State) : Prop where
  noInput  : s.inbox = []
  idle     : s.fsm = .idle
  returned : s.opening = none
  answered : ∀ k, s.abandonedAt = some k → (s.trace.drop k).any isRet = true
  drained  : s.transport.outstanding = []

/-- R147: the engine waits for a transfer that has not completed. -/
def Waiting (s : State) : Prop :=
  s.fsm = .awaitingCompletion ∧ s.pc = .w1 ∧ s.subIdx ≠ 0 ∧ completionsOf? s.transport (awaitedIds s) = none

/-- How many engine steps an operation can still take, waiting left out. -/
def remaining (s : State) : Nat :=
  match s.pc with
  | .idle => 0
  | .s1 => (s.n - s.subIdx) + 13
  | .s2 => (s.n - s.subIdx) + 11 + (if s.failed then 0 else 1)
  | .w1 => 10
  | .w1Sync => 9
  | .w1Latch => 8
  | .w2 => 7
  | .w3 => 6
  | .c1 => 5
  | .latch => 4
  | .c2 => 3
  | .c3 => 2
  | .f1 => 2

end Sys2Proof.Machine
end

