-- ==== Sys2Proof/Certificates/Slice0/Obligations.lean ====
section
/-! DEFINITION. The statements for the provers. A docstring names the rule a statement formalises; where a clause rests
on a choice of this model, it names the entry of the assumption log. -/

open Sys2Proof Sys2Proof.Machine

/-! ### The codec -/

/-- R101, R72: ENCODE answers the frame of R72, each field at its place, exactly for the words the five clauses accept,
and `UnsupportedField` for every other word; every reserved bit of the frame is 0. -/
def Obligations.EncodeFollowsTheTable : Prop :=
  ∀ (T : FamilyTable) (w : RegisterWord), T.wf = true →
    let accepts (a : ChanRow) (r : CmdRow) : Prop :=
      a ∈ T.chans ∧ a.chan = w.channel ∧ r ∈ T.cmds ∧ r.cmd = w.command ∧ w.data < 2 ^ T.dataW ∧
        (r.takesMode = false → w.modeBits = none) ∧
        (r.takesMode = true → ∃ v, w.modeBits = some v ∧ v < 2 ^ T.modeW)
    (∀ a r, accepts a r →
      let f := (if w.direction = .write then T.dirWrite.toNat else 1 - T.dirWrite.toNat) * 2 ^ T.dirPos +
        r.code * 2 ^ T.cmdLo + a.code * 2 ^ T.addrLo + w.data * 2 ^ T.dataLo + w.modeBits.getD 0 * 2 ^ T.modeLo
      encodeWord T w = .ok (frameBytes T.W f) ∧ f < 2 ^ T.W ∧ ∀ i, T.isReserved i = true → f.testBit i = false) ∧
    ((∀ a r, ¬ accepts a r) → encodeWord T w = .error .unsupportedField)

/-- R80: ENCODE never produces a reserved bit, an unassigned command or channel code, or a mode field under a command
that takes no mode bits. -/
def Obligations.EncodeProducesOnlyLegalFrames : Prop :=
  ∀ (T : FamilyTable) (w : RegisterWord) (b : List Byte), T.wf = true → encodeWord T w = .ok b →
    let f := frameOfBytes b
    (∀ i, T.isReserved i = true → f.testBit i = false) ∧
    (∃ r ∈ T.cmds, r.code = fieldOf f T.cmdLo T.cmdW ∧ (r.takesMode = false → fieldOf f T.modeLo T.modeW = 0)) ∧
    (∃ a ∈ T.chans, a.code = fieldOf f T.addrLo T.addrW)

/-- 40_codec.md §1 (the inference of R102): a frame has exactly `T.L` bytes, and two words of a family never encode to
the same frame. -/
def Obligations.EncodeIsInjective : Prop :=
  ∀ (T : FamilyTable) (v w : RegisterWord) (b : List Byte), T.wf = true →
    encodeWord T v = .ok b → encodeWord T w = .ok b → b.length = T.L ∧ v = w

/-- R103: the round trip of every representable word of every family. -/
def Obligations.DecodeUndoesEncode : Prop :=
  ∀ (T : FamilyTable) (w : RegisterWord), T.wf = true → representable T w = true →
    ∃ b, encodeWord T w = .ok b ∧ decodeWord T b = .ok w

/-- 40_codec.md §4 (the inference of R112): what DECODE accepts is what ENCODE produces. -/
def Obligations.EncodeUndoesDecode : Prop :=
  ∀ (T : FamilyTable) (w : RegisterWord) (b : List Byte), T.wf = true → decodeWord T b = .ok w →
    representable T w = true ∧ encodeWord T w = .ok b

/-- R105: a byte sequence of another length than `T.L` is refused. -/
def Obligations.DecodeChecksTheLength : Prop :=
  ∀ (T : FamilyTable) (b : List Byte), b.length ≠ T.L → decodeWord T b = .error .malformedFrame

/-- R81: a frame of the right length that ENCODE could not have produced is refused with `MalformedFrame`; so is each
of the four cases the rule lists. -/
def Obligations.DecodeRefusesForeignFrames : Prop :=
  ∀ (T : FamilyTable) (b : List Byte), T.wf = true → b.length = T.L →
    let f := frameOfBytes b
    ((∀ w, encodeWord T w ≠ .ok b) → decodeWord T b = .error .malformedFrame) ∧
    ((∃ i, T.isReserved i = true ∧ f.testBit i = true) → decodeWord T b = .error .malformedFrame) ∧
    ((∀ r ∈ T.cmds, r.code ≠ fieldOf f T.cmdLo T.cmdW) → decodeWord T b = .error .malformedFrame) ∧
    ((∀ a ∈ T.chans, a.code ≠ fieldOf f T.addrLo T.addrW) → decodeWord T b = .error .malformedFrame) ∧
    (∀ r ∈ T.cmds, r.code = fieldOf f T.cmdLo T.cmdW → r.takesMode = false → fieldOf f T.modeLo T.modeW ≠ 0 →
      decodeWord T b = .error .malformedFrame)

/-- R77: DECODE accepts a 32-bit frame as a command of REF32 exactly where the command's mask and match say so and the
address is 000 to 011; and the fields stand where the encodings show them. -/
def Obligations.Ref32OpcodeMap : Prop :=
  ∀ (f : Nat), f < 2 ^ 32 →
    (∀ c, (∃ w, decodeWord ref32 (frameBytes 32 f) = .ok w ∧ w.command = c) ↔
      f &&& ref32Mask c = ref32Match c ∧ f / 2 ^ 24 % 2 ^ 3 ≤ 3) ∧
    (∀ w, decodeWord ref32 (frameBytes 32 f) = .ok w →
      w.data = f % 2 ^ 16 ∧ (w.direction = .read ↔ f.testBit 31 = true) ∧ channelCode w.channel = f / 2 ^ 24 % 2 ^ 3 ∧
      (w.command = .spanMode ∨ w.command = .powerMode → w.modeBits = some (f / 2 ^ 16 % 2 ^ 4)) ∧
      (w.command ≠ .spanMode → w.command ≠ .powerMode → w.modeBits = none))

/-- R79: the same for REF24, whose mask is 0x73000F in every row, whose address is 00 to 10, and which has neither
SpanMode nor PowerMode. -/
def Obligations.Ref24OpcodeMap : Prop :=
  ∀ (f : Nat), f < 2 ^ 24 →
    (∀ c, (∃ w, decodeWord ref24 (frameBytes 24 f) = .ok w ∧ w.command = c) ↔
      ref24Match? c = some (f &&& 0x73000F) ∧ f / 2 ^ 18 % 2 ^ 2 ≤ 2) ∧
    (∀ w, decodeWord ref24 (frameBytes 24 f) = .ok w →
      w.data = f / 2 ^ 4 % 2 ^ 12 ∧ (w.direction = .read ↔ f.testBit 23 = true) ∧
      channelCode w.channel = f / 2 ^ 18 % 2 ^ 2 ∧ w.modeBits = none)

/-- R47: byte `k` of a frame is `f[W-1-8k : W-8-8k]`, `k = 0 .. W/8-1`, and the received bytes are assembled by the
same rule. -/
def Obligations.FrameBytesMostSignificantFirst : Prop :=
  (∀ (W f : Nat), W % 8 = 0 → (frameBytes W f).length = W / 8 ∧
    ∀ k, k < W / 8 → (frameBytes W f)[k]? = some (BitVec.ofNat 8 (fieldOf f (W - 8 - 8 * k) 8))) ∧
  (∀ (W f : Nat), W % 8 = 0 → f < 2 ^ W → frameOfBytes (frameBytes W f) = f) ∧
  (∀ b : List Byte, frameBytes (8 * b.length) (frameOfBytes b) = b)

/-- 20_memory.md §2 (R48, an assumption of the spec about the transport): byte 0 first and bit 7 of each byte first is
the frame value from its most significant bit down. -/
def Obligations.WireOrderIsMostSignificantFirst : Prop :=
  ∀ (W f : Nat), W % 8 = 0 →
    wireBits (frameBytes W f) = (List.range W).map fun i => f.testBit (W - 1 - i)

/-! ### Decoding and encoding instructions -/

/-- Decoding what is presented for a well-formed instruction gives it back, whatever its operands (R103 for the frame
commands; the host port's operand bytes are this model's choice, assumption 2). -/
def Obligations.DecodeGivesEveryInstructionBack : Prop :=
  ∀ i : Instr, i.wf = true → decode (encode i) = .instr i

/-- A few words of the encodings of R77, R79 and R85 decode to the instructions they stand for. -/
def Obligations.TableWordsDecode : Prop :=
  decodeTableWord 32 0x0800DEAD = some (.ref32WriteAndUpdate .write .A 0xDEAD none) ∧
  decodeTableWord 32 0x19050000 = some (.ref32SpanMode .write .B 0 (some 5)) ∧
  decodeTableWord 32 0x80000000 = some (.ref32WriteOnly .read .A 0 none) ∧
  decodeTableWord 24 0x10DEA0 = some (.ref24WriteAndUpdate .write .A 0xDEA none) ∧
  decodeTableWord 8 0x02 = some (.hostWrite ⟨.write, .writeOnly, .A, 0, none⟩) ∧
  decodeTableWord 8 0x03 = some (.hostWriteBatch [] false) ∧
  decodeTableWord 32 0x28000000 = none ∧ decodeTableWord 8 0x05 = none

/-- 30_encoding.md §7 (a clause of R85): an operation code other than 1 to 4 changes `RESULT` alone, and makes no port
event. -/
def Obligations.UnassignedCodeOnlyAnswers : Prop :=
  ∀ (s : State) (code : Byte) (operands : List Byte) (rest : List Input),
    code.toNat ∉ [1, 2, 3, 4] → s.inbox = .port (.host (code :: operands)) :: rest →
    step s = .next { s with inbox := rest, result := .err .unsupportedField }

/-- A step runs the decoded instruction: where the next input is a presentation that decodes to `i`, the step is `exec`
of `i`, the input taken and nothing else done; and `withFetchWord` presents the word it is given. -/
def Obligations.StepRunsTheDecodedInstruction : Prop :=
  (∀ (s : State) (w : PortWord) (rest : List Input) (i : Instr),
    s.inbox = .port w :: rest → decode w = .instr i → step s = exec i { s with inbox := rest }) ∧
  (∀ (s : State) (nbits w : Nat) (i : Instr),
    decodeTableWord nbits w = some i → step (s.withFetchWord nbits w) = exec i s)

/-! ### The frame commands -/

/-- 40_codec.md §3 (block semantics of R106 to R108 in REF32): WriteOnly, WriteAndUpdate and UpdateOnly pack direction,
code, channel and data, and have no other effect. That the answer is seen in `codecOut` is assumption 3. -/
def Obligations.Ref32PlainCommandsPack : Prop :=
  ∀ (s : State) (d : Direction) (c : Channel) (a x : Nat),
    (c, a) ∈ [(Channel.A, 0), (.B, 1), (.C, 2), (.D, 3)] → x < 2 ^ 16 →
    let frame (code : Nat) := frameBytes 32 (directionCode d * 2 ^ 31 + code * 2 ^ 27 + a * 2 ^ 24 + x)
    exec (.ref32WriteOnly d c x none) s =
      .next { s with codecOut := .encoded ⟨d, .writeOnly, c, x, none⟩ (frame 0) } ∧
    exec (.ref32WriteAndUpdate d c x none) s =
      .next { s with codecOut := .encoded ⟨d, .writeAndUpdate, c, x, none⟩ (frame 1) } ∧
    exec (.ref32UpdateOnly d c x none) s =
      .next { s with codecOut := .encoded ⟨d, .updateOnly, c, x, none⟩ (frame 2) }

/-- 40_codec.md §3 (block semantics of R109, R110): SpanMode and PowerMode pack the mode value too. That the answer is
seen in `codecOut` is assumption 3. -/
def Obligations.Ref32ModeCommandsPack : Prop :=
  ∀ (s : State) (d : Direction) (c : Channel) (a x m : Nat),
    (c, a) ∈ [(Channel.A, 0), (.B, 1), (.C, 2), (.D, 3)] → x < 2 ^ 16 → m < 2 ^ 4 →
    let frame (code : Nat) := frameBytes 32 (directionCode d * 2 ^ 31 + code * 2 ^ 27 + a * 2 ^ 24 + m * 2 ^ 16 + x)
    exec (.ref32SpanMode d c x (some m)) s =
      .next { s with codecOut := .encoded ⟨d, .spanMode, c, x, some m⟩ (frame 3) } ∧
    exec (.ref32PowerMode d c x (some m)) s =
      .next { s with codecOut := .encoded ⟨d, .powerMode, c, x, some m⟩ (frame 4) }

/-- 40_codec.md §3 (block semantics of R106 to R108 in REF24): the data value is shifted left by the family's offset 4.
That the answer is seen in `codecOut` is assumption 3. -/
def Obligations.Ref24CommandsPack : Prop :=
  ∀ (s : State) (d : Direction) (c : Channel) (a x : Nat),
    (c, a) ∈ [(Channel.A, 0), (.B, 1), (.C, 2)] → x < 2 ^ 12 →
    let frame (code : Nat) := frameBytes 24 (directionCode d * 2 ^ 23 + code * 2 ^ 20 + a * 2 ^ 18 + x * 2 ^ 4)
    exec (.ref24WriteOnly d c x none) s =
      .next { s with codecOut := .encoded ⟨d, .writeOnly, c, x, none⟩ (frame 0) } ∧
    exec (.ref24WriteAndUpdate d c x none) s =
      .next { s with codecOut := .encoded ⟨d, .writeAndUpdate, c, x, none⟩ (frame 1) } ∧
    exec (.ref24UpdateOnly d c x none) s =
      .next { s with codecOut := .encoded ⟨d, .updateOnly, c, x, none⟩ (frame 2) }

/-- 40_codec.md §3 (the errors of R106 to R110): a frame command whose word the family cannot carry answers
`UnsupportedField`: a channel out of the family, data too wide, mode bits given where none are taken, missing where they
are required, or too wide. That the answer is seen in `codecOut` is assumption 3. -/
def Obligations.FrameCommandsRefuseBadWords : Prop :=
  ∀ (s : State) (d : Direction) (c : Channel) (x : Nat) (m : Option Nat),
    let refused : Host.Outcome State Fault Refusal := .next { s with codecOut := .error .unsupportedField }
    let in32 := c ∈ [Channel.A, .B, .C, .D]
    let in24 := c ∈ [Channel.A, .B, .C]
    (¬ (in32 ∧ x < 2 ^ 16 ∧ m = none) →
      exec (.ref32WriteOnly d c x m) s = refused ∧ exec (.ref32WriteAndUpdate d c x m) s = refused ∧
      exec (.ref32UpdateOnly d c x m) s = refused) ∧
    (¬ (in32 ∧ x < 2 ^ 16 ∧ ∃ v, m = some v ∧ v < 2 ^ 4) →
      exec (.ref32SpanMode d c x m) s = refused ∧ exec (.ref32PowerMode d c x m) s = refused) ∧
    (¬ (in24 ∧ x < 2 ^ 12 ∧ m = none) →
      exec (.ref24WriteOnly d c x m) s = refused ∧ exec (.ref24WriteAndUpdate d c x m) s = refused ∧
      exec (.ref24UpdateOnly d c x m) s = refused)

/-! ### OPEN -/

/-- R186: OPEN while a session exists is refused with `TransportBusy` and changes nothing, whatever its operands and
whether or not an operation is in flight. -/
def Obligations.SecondOpenIsRefused : Prop :=
  ∀ (s : State) (h : Nat) (c : OpenCfg), s.sessionValid = true →
    exec (.hostOpen h c) s =
      .next { s with result := .err .transportBusy, trace := s.trace ++ [.ret .openOp (.err .transportBusy)] }

/-- 43_session.md §2, §3 (R180 O2, R181, R193): OPEN answers `MissingPin` where a mandatory role is unassigned, with no
port event and no session, and otherwise goes on to its lines; no other step of the machine answers it; CLK, DOUT and
SYNC are mandatory in every family, LATCH in REF24 alone of the reference families, RESET and DIN in neither. (That the
lines are steps of their own, seen in `opening`, is assumption 5.) -/
def Obligations.MissingPinStopsOpen : Prop :=
  (∀ (s : State) (h : Nat) (c : OpenCfg) (T : FamilyTable), s.sessionValid = false → s.opening = none →
    s.par.table? c.deviceFamily = some T → 1 ≤ c.pipelineDepth → c.pipelineDepth ≤ s.par.maxDepth →
    ((∃ r ∈ T.mandatoryRoles, c.pins.get r = none) → exec (.hostOpen h c) s =
      .next { s with result := .err .missingPin, trace := s.trace ++ [.ret .openOp (.err .missingPin)] }) ∧
    ((∀ r ∈ T.mandatoryRoles, c.pins.get r ≠ none) →
      exec (.hostOpen h c) s = .next { s with opening := some ⟨h, c, .sync⟩ })) ∧
  (∀ (s t : State) (op : HostOp) (es : List Event), Inv s → step s = .next t → t.trace = s.trace ++ es →
    .ret op (.err .missingPin) ∈ es →
    ∃ w h c T, s.inbox.head? = some (.port w) ∧ decode w = .instr (.hostOpen h c) ∧ s.sessionValid = false ∧
      s.opening = none ∧ s.par.table? c.deviceFamily = some T ∧ ∃ r ∈ T.mandatoryRoles, c.pins.get r = none) ∧
  (∀ T : FamilyTable, T.wf = true → ∀ r ∈ [Role.clk, .dout, .sync], r ∈ T.mandatoryRoles) ∧
  (∀ r ∈ [Role.latch, .reset, .din], r ∉ ref32.mandatoryRoles) ∧
  Role.latch ∈ ref24.mandatoryRoles ∧ ∀ r ∈ [Role.reset, .din], r ∉ ref24.mandatoryRoles

/-- 43_session.md §3 (R180 O3 and O4, R183, R184): where every line call of the power-up sequence succeeds, OPEN drives
SYNC to `High`, LATCH to `LATCH_IDLE` and RESET to `High`, pulses RESET where the family asks for it, each on an
assigned role only, sends no frame, and establishes the session, in which the register of a role without a line is
`Unknown`. (That the five lines are steps of their own after the instruction's, here with nothing else between them, is
assumption 5; that the register of an unassigned role is cleared by the last of them is assumption 14.) -/
def Obligations.OpenPowersUpAndEstablishes : Prop :=
  ∀ (s : State) (h : Nat) (c : OpenCfg) (T : FamilyTable) (answers : List Bool) (rest : List Input),
    s.sessionValid = false → s.opening = none →
    s.par.table? c.deviceFamily = some T → 1 ≤ c.pipelineDepth → c.pipelineDepth ≤ s.par.maxDepth →
    (∀ r ∈ T.mandatoryRoles, c.pins.get r ≠ none) →
    s.lineAnswers = List.replicate (openCalls T c.pins s.par).length true ++ answers → s.inbox = runs 5 ++ rest →
    ∃ u, exec (.hostOpen h c) s = .next u ∧ runSteps 5 u = .next { s with
      sessionValid := true, cfg := ⟨c.deviceFamily, c.pins, h, c.pipelineDepth, c.clockFreq⟩, result := .ok
      lineSync := if c.pins.sync.isSome then .known .high else .unknown
      lineLatch := if c.pins.latch.isSome then .known s.par.latchIdle else .unknown
      lineReset := if c.pins.reset.isSome then .known .high else .unknown
      lineAnswers := answers, inbox := rest
      trace := s.trace ++ openCalls T c.pins s.par ++ [.ret .openOp .ok] }

/-- 43_session.md §3 (R180 O3, R185): the first line call of the power-up sequence that fails, the call numbered `j`,
ends OPEN with `LineSequencingFailed`: the calls up to it happened and wrote LINE, and the session is not established.
(That the lines are steps after the instruction's, at most five of them here, is assumption 5.) -/
def Obligations.OpenStopsAtTheFirstFailingLine : Prop :=
  ∀ (s : State) (h : Nat) (c : OpenCfg) (T : FamilyTable) (j : Nat) (e : Event) (answers : List Bool)
    (rest : List Input), s.sessionValid = false → s.opening = none →
    s.par.table? c.deviceFamily = some T → 1 ≤ c.pipelineDepth →
    c.pipelineDepth ≤ s.par.maxDepth → (∀ r ∈ T.mandatoryRoles, c.pins.get r ≠ none) →
    (openCalls T c.pins s.par)[j]? = some e → s.lineAnswers = List.replicate j true ++ false :: answers →
    s.inbox = runs 5 ++ rest →
    let es := (openCalls T c.pins s.par).take j ++ [asFailed e]
    ∃ u k, exec (.hostOpen h c) s = .next u ∧ k ≤ 5 ∧ runSteps k u = .next { s with
      result := .err .lineSequencingFailed
      lineSync := lineAfterEvents s.par .sync s.lineSync es
      lineLatch := lineAfterEvents s.par .latch s.lineLatch es
      lineReset := lineAfterEvents s.par .reset s.lineReset es
      lineAnswers := answers, inbox := runs (5 - k) ++ rest
      trace := s.trace ++ es ++ [.ret .openOp (.err .lineSequencingFailed)] }

/-- 43_session.md §3 (R180, R185, R186): with operands its types admit OPEN answers at once, `TransportBusy` or
`MissingPin`, or passes its checks; and an OPEN in progress returns within five moves of the block, whatever the
environment does between them, the transport being left as the performances alone make it: it touches no engine
register, submits nothing and pulses no latch, and where it answers the error `LineSequencingFailed` the session and
`CFG` stay as they were. (That an OPEN presented while one is in progress is answered `TransportBusy` is R229; that the
lines are five steps is assumption 5.) -/
def Obligations.OpenAnswersAndTouchesNoEngine : Prop :=
  (∀ (s : State) (h : Nat) (c : OpenCfg) (T : FamilyTable), s.par.table? c.deviceFamily = some T →
    1 ≤ c.pipelineDepth → c.pipelineDepth ≤ s.par.maxDepth →
    (s.sessionValid = false ∧ s.opening = none ∧ (∀ r ∈ T.mandatoryRoles, c.pins.get r ≠ none) ∧
      exec (.hostOpen h c) s = .next { s with opening := some ⟨h, c, .sync⟩ }) ∨
    ∃ e, (e = Error.transportBusy ∧ (s.sessionValid = true ∨ s.opening ≠ none) ∨
        e = .missingPin ∧ s.sessionValid = false ∧ s.opening = none ∧ ∃ r ∈ T.mandatoryRoles, c.pins.get r = none) ∧
      exec (.hostOpen h c) s = .next { s with result := .err e, trace := s.trace ++ [.ret .openOp (.err e)] }) ∧
  (∀ (s : State) (o : Opening) (moves : List EnvMove) (rest : List Input), Inv s → s.opening = some o →
    moves.count .run = 5 → s.inbox = moves.map .move ++ rest →
    ∃ t es calls, runSteps moves.length s = .next t ∧ t.opening = none ∧ t.inbox = rest ∧ t.trace = s.trace ++ es ∧
      es.filter (fun e => isEngineEvent e || isRet e) = calls ++ [.ret .openOp t.result] ∧
      (∀ e ∈ calls, ∃ r v d ok, e = .line r v ok ∨ e = .pulse .reset d ok) ∧
      t.transport = (afterPerfs moves s).transport ∧
      s.trace ++ es.filter (fun e => !(isEngineEvent e || isRet e)) = (afterPerfs moves s).trace ∧
      t = { s with
        sessionValid := t.sessionValid, cfg := t.cfg, lineSync := t.lineSync, lineLatch := t.lineLatch
        lineReset := t.lineReset, lineAnswers := t.lineAnswers, draws := t.draws, result := t.result
        opening := t.opening, transport := t.transport, inbox := t.inbox, trace := t.trace } ∧
      (t.result = .ok ∧ t.sessionValid = true ∧
          t.cfg = ⟨o.cfg.deviceFamily, o.cfg.pins, o.handle, o.cfg.pipelineDepth, o.cfg.clockFreq⟩ ∨
        t.result = .err .lineSequencingFailed ∧ t.sessionValid = false ∧ t.cfg = s.cfg))

/-- Assumption 11, this model's choice: OPEN with operands R180 says cannot be expressed, a depth outside
`1 .. MAX_DEPTH` or a family not in `FAMILIES`, is refused by name, after the session check O1. -/
def Obligations.InexpressibleOpenIsRefusedByName : Prop :=
  ∀ (s : State) (h : Nat) (c : OpenCfg), s.sessionValid = false → s.opening = none →
    (s.par.table? c.deviceFamily = none ∨ c.pipelineDepth = 0 ∨ s.par.maxDepth < c.pipelineDepth) →
    exec (.hostOpen h c) s = .refused .notExpressible

/-! ### Admission -/

/-- R142: admission is one atomic step of WRITE, WRITE_BATCH and READ, with its five checks in order; a refusal changes
no register but `RESULT`, and otherwise the engine registers are loaded with the encoded words and `Submitting` is
entered. -/
def Obligations.AdmissionIsOneAtomicStep : Prop :=
  ∀ (s : State) (T : FamilyTable), sessionTable? s = some T →
    (∀ w, AdmissionAnswers T .writeOp .direct false [w] s.par.directUpdate s (exec (.hostWrite w) s)) ∧
    (∀ ws l, AdmissionAnswers T .writeBatchOp .pipelined false ws l s (exec (.hostWriteBatch ws l) s)) ∧
    (∀ w, AdmissionAnswers T .readOp .direct true [w] false s (exec (.hostRead w) s))

/-- 42_transfer_engine.md §1 to §3 (R140, R141, R155 with A6 of R143): an idle block with a session admits a WRITE and a
READ of a representable word, and a batch no longer than the pipeline depth of representable words, and loads the
engine; no line is driven and nothing is submitted yet. -/
def Obligations.OperationsAreAdmitted : Prop :=
  ∀ (s : State) (T : FamilyTable), s.sessionValid = true → s.fsm = .idle → sessionTable? s = some T →
    let loaded (m : Mode) (rdback : Bool) (fs : List Nat) (latchReq : Bool) : State := { s with
      frame := fs ++ s.frame.drop fs.length, n := fs.length, subIdx := 0, failed := false, latchReq := latchReq
      mode := m, rdback := rdback, fsm := .submitting, pc := .s1, opStart := s.trace.length }
    (∀ w f, encodeValue T w = .ok f →
      exec (.hostWrite w) s = .next (loaded .direct false [f] s.par.directUpdate)) ∧
    (∀ ws fs l, ws.length ≤ s.cfg.depth → ws.map (encodeValue T) = fs.map .ok →
      exec (.hostWriteBatch ws l) s = .next (loaded .pipelined false fs l)) ∧
    (∀ w f, T.bidirectional = true → s.cfg.pins.din ≠ none → encodeValue T w = .ok f →
      exec (.hostRead w) s = .next (loaded .direct true [f] false))

/-- R202: `NoSession` is raised exactly when WRITE, WRITE_BATCH or READ is presented without a session; no other step of
the machine answers it. -/
def Obligations.NoSessionExactlyWithoutSession : Prop :=
  (∀ (s : State),
    let refused (op : HostOp) : Host.Outcome State Fault Refusal :=
      .next { s with result := .err .noSession, trace := s.trace ++ [.ret op (.err .noSession)] }
    s.sessionValid = false →
      (∀ w, exec (.hostWrite w) s = refused .writeOp) ∧
      (∀ ws l, exec (.hostWriteBatch ws l) s = refused .writeBatchOp) ∧
      (∀ w, exec (.hostRead w) s = refused .readOp)) ∧
  (∀ (s t : State) (op : HostOp) (es : List Event), Inv s → step s = .next t → t.trace = s.trace ++ es →
    .ret op (.err .noSession) ∈ es →
    s.sessionValid = false ∧ ∃ p, s.inbox.head? = some (.port p) ∧
      ((∃ w, decode p = .instr (.hostWrite w)) ∨ (∃ ws l, decode p = .instr (.hostWriteBatch ws l)) ∨
        ∃ w, decode p = .instr (.hostRead w)))

/-- R158: an operation presented while another is in flight is refused with `TransportBusy` and has no other effect,
whatever its operands. -/
def Obligations.BusyBlockRefusesOperations : Prop :=
  ∀ (s : State), Inv s → s.fsm ≠ .idle →
    let refused (op : HostOp) : Host.Outcome State Fault Refusal :=
      .next { s with result := .err .transportBusy, trace := s.trace ++ [.ret op (.err .transportBusy)] }
    (∀ w, exec (.hostWrite w) s = refused .writeOp) ∧
    (∀ ws l, exec (.hostWriteBatch ws l) s = refused .writeBatchOp) ∧
    (∀ w, exec (.hostRead w) s = refused .readOp) ∧
    (∀ h c, exec (.hostOpen h c) s = refused .openOp)

/-- R157: a batch longer than the pipeline depth is refused at admission with `QueueFull`, before any frame is sent. -/
def Obligations.LongBatchIsRefused : Prop :=
  ∀ (s : State) (ws : List RegisterWord) (l : Bool), Inv s → s.sessionValid = true → s.fsm = .idle →
    s.cfg.depth < ws.length →
    exec (.hostWriteBatch ws l) s =
      .next { s with result := .err .queueFull, trace := s.trace ++ [.ret .writeBatchOp (.err .queueFull)] }

/-! ### The engine's steps -/

/-- 42_transfer_engine.md §2 (R144 to R146, S2 of R143) with R42 and R199: the engine submits the frame of slot
`SUB_IDX` under a fresh id; or the transport answers `QueueFull`, which Direct mode records as `TransportBusy` and
Pipelined mode as `QueueFull`, and nothing is enqueued. (That the fresh id is the counter `nextId` is assumption 8.) -/
def Obligations.EngineSubmitsSlotBySlot : Prop :=
  ∀ (s : State) (T : FamilyTable) (f : Nat) (rest : List Input), Inv s → s.inbox = .move .run :: rest → s.pc = .s2 →
    s.subIdx < s.n → s.failed = false → sessionTable? s = some T → s.frame[s.subIdx]? = some f →
    let id := s.transport.nextId
    (outstandingOf s.transport s.cfg.handle < queueDepth s.transport s.cfg.handle → step s = .next { s with
      inbox := rest, ids := s.ids.set s.subIdx id, subIdx := s.subIdx + 1
      transport := { s.transport with
        outstanding := s.transport.outstanding ++ [⟨id, s.cfg.handle, frameBytes T.W f, T.W⟩], nextId := id + 1 }
      trace := s.trace ++ [.sub id f T.W] }) ∧
    (queueDepth s.transport s.cfg.handle ≤ outstandingOf s.transport s.cfg.handle → step s = .next { s with
      inbox := rest, failed := true, err := if s.mode = .direct then .transportBusy else .queueFull
      trace := s.trace ++ [.subFull] })

/-- 20_memory.md §1 and 42_transfer_engine.md (R43, R156, W1 of R143): where every transfer named has completed, the
wait returns: `Ok` where every one succeeded, else `TransportFailure`, which Pipelined mode records as
`BatchPartialFailure`; the completions are consumed, and `RX` takes the bytes of transfer `ID[0]` on success of a READ
only. -/
def Obligations.AwaitAnswersForTheWholeSet : Prop :=
  ∀ (s : State) (c : Completion) (cs : List Completion) (rest : List Input), Inv s →
    s.inbox = .move .run :: rest → s.pc = .w1 → s.subIdx ≠ 0 →
    completionsOf? s.transport (awaitedIds s) = some (c :: cs) →
    let allOk := (c :: cs).all (·.ok)
    step s = .next { s with
      inbox := rest, pc := .w2
      transport := { s.transport with
        completions := s.transport.completions.filter fun d => decide (d.id ∉ awaitedIds s) }
      trace := s.trace ++ [.await (awaitedIds s) (if allOk then .ok else .transportFailure)]
      failed := s.failed || !allOk
      err := if s.failed || allOk then s.err
        else if s.mode = .direct then .transportFailure else .batchPartialFailure
      rx := if allOk && s.rdback then c.rx else s.rx }

/-- 42_transfer_engine.md §2 (the end of R147): with `MAX_WAIT = none`, while a transfer named is not
performed the engine stays in `AwaitingCompletion`, whatever else the engine and the transport do, and no operation
returns. -/
def Obligations.EngineWaitsUntilAllComplete : Prop :=
  ∀ (s : State) (x : Nat) (moves : List EnvMove) (rest : List Input), Inv s → Waiting s → s.par.maxWait = none →
    x ∈ awaitedIds s → completionOf? s.transport x = none → (∀ ok rx, EnvMove.perf x ok rx ∉ moves) →
    s.inbox = moves.map .move ++ rest →
    ∃ t, runSteps moves.length s = .next t ∧ t.fsm = .awaitingCompletion ∧ t.pc = .w1 ∧ t.inbox = rest ∧
      ∃ es, t.trace = s.trace ++ es ∧ ∀ e ∈ es, ∃ id ok, e = .perf id ok

/-- 41_sequencer.md (R126) and 60_exceptions.md (R200): where the wait runs out, `Timeout` is recorded unless an error
is recorded already, and LINES_IDLE makes both its calls, the second even where the first fails, a call on an unassigned
LATCH being none; a failed line is left `Unknown`, and the answers do not reach the host: the operation goes on to its
end with the error recorded. Where a transfer named has failed already, the wait may end with `TransportFailure`
instead, and then no line is idled by it (R203; that the choice is the environment's is assumption 9). -/
def Obligations.TimeoutIdlesTheLines : Prop :=
  (∀ (s : State) (a b : Bool) (answers : List Bool) (rest : List Input), Inv s → mayExpire s = true →
    s.lineAnswers = a :: b :: answers → s.inbox = .move (.expire false) :: runs 2 ++ rest →
    ∃ t, runSteps 3 s = .next t ∧
      t.trace = s.trace ++ [.await (awaitedIds s) .timeout, .line .sync .high a] ++
        (if s.cfg.pins.latch.isSome then [.line .latch s.par.latchIdle b] else []) ∧
      t.failed = true ∧ t.err = (if s.failed then s.err else .timeout) ∧ t.fsm = .awaitingCompletion ∧ t.pc = .w3 ∧
      t.lineSync = (if a then .known .high else .unknown) ∧
      t.lineLatch = (if s.cfg.pins.latch.isSome then (if b then .known s.par.latchIdle else .unknown) else s.lineLatch) ∧
      t.lineReset = s.lineReset ∧ t.lineAnswers = (if s.cfg.pins.latch.isSome then answers else b :: answers) ∧
      t.transport.outstanding = s.transport.outstanding ∧ t.inbox = rest) ∧
  (∀ (s : State) (rest : List Input), Inv s → mayExpire s = true →
    anyCompletedFailed s.transport (awaitedIds s) = true → s.inbox = .move (.expire true) :: rest →
    step s = .next { s with
      inbox := rest, pc := .w2, failed := true
      err := if s.failed then s.err else if s.mode = .direct then .transportFailure else .batchPartialFailure
      transport := { s.transport with
        completions := s.transport.completions.filter fun d => decide (d.id ∉ awaitedIds s) }
      trace := s.trace ++ [.await (awaitedIds s) .transportFailure] })

/-- 41_sequencer.md §3 (R127, R194): each line call of an operation in flight but LINES_IDLE's, whatever the driver
answers (`a`): SYNC_ASSERT at S1 and SYNC_DEASSERT at W2 in Direct mode, and the latch pulse; a failed call leaves LINE
`Unknown` and records `LineSequencingFailed` in `FAIL` and `ERR`, unless an error is recorded already, and the operation
goes on at its next line without a second attempt. -/
def Obligations.FailedLineCallIsRecorded : Prop :=
  ∀ (s : State) (T : FamilyTable) (a : Bool) (answers : List Bool) (rest : List Input), Inv s →
    sessionTable? s = some T → s.lineAnswers = a :: answers → s.inbox = .move .run :: rest →
    (s.pc = .s1 → s.mode = .direct → step s = .next { s with
      inbox := rest, pc := .s2, lineAnswers := answers, lineSync := if a then .known .low else .unknown
      failed := !a, err := if a then s.err else .lineSequencingFailed
      trace := s.trace ++ [.line .sync .low a] }) ∧
    (s.pc = .w2 → s.mode = .direct → step s = .next { s with
      inbox := rest, pc := .w3, lineAnswers := answers, lineSync := if a then .known .high else .unknown
      failed := s.failed || !a, err := if s.failed || a then s.err else .lineSequencingFailed
      trace := s.trace ++ [.line .sync .high a] }) ∧
    (s.pc = .latch → s.cfg.pins.latch ≠ none → step s = .next { s with
      inbox := rest, pc := .c2, lineAnswers := answers
      lineLatch := if a then .known s.par.latchIdle else .unknown
      failed := !a, err := if a then s.err else .lineSequencingFailed
      res := if a then .ok else .err .lineSequencingFailed
      trace := s.trace ++ [.pulse .latch T.tLatchHoldMin a] })

/-- 10_state.md §4 (R16) and R203: once an error is recorded, no step of the same operation clears `FAIL` or replaces
`ERR`; and a step that records one is the first. -/
def Obligations.FirstErrorWins : Prop :=
  ∀ (s t : State), Inv s → step s = .next t → s.fsm ≠ .idle → t.fsm ≠ .idle →
    (s.failed = true → t.failed = true ∧ t.err = s.err) ∧
    (s.failed = false → t.failed = false → t.err = s.err)

/-- 42_transfer_engine.md §5 (R160): every change of `FSM` that is not the reset input's is a transition of the
relation, taken under its condition, with the result it writes. -/
def Obligations.FsmFollowsTheRelation : Prop :=
  ∀ (s t : State), Inv s → s.inbox.head? ≠ some .reset → step s = .next t → FsmStep s t

/-- 42_transfer_engine.md §2 (R149) and 41_sequencer.md (R124): the latch line is pulsed in `Latching` alone, once, for
the hold time of the session's family, where the operation asked for it and no step of it failed; a failure of the pulse
becomes the operation's result and is recorded like every failed line call (R127). -/
def Obligations.LatchPulsedOnlyInLatching : Prop :=
  ∀ (s t : State), Inv s → step s = .next t → latchPulses t.trace ≠ latchPulses s.trace →
    s.fsm = .latching ∧ s.pc = .latch ∧ s.latchReq = true ∧ s.failed = false ∧ t.pc = .c2 ∧
    ∃ T ok, sessionTable? s = some T ∧ t.trace = s.trace ++ [.pulse .latch T.tLatchHoldMin ok] ∧
      t.res = (if ok then .ok else .err .lineSequencingFailed) ∧ t.failed = (!ok) ∧
      t.err = if ok then s.err else .lineSequencingFailed

/-- 10_state.md §6 (R24) and 43_session.md (R184): a step that is not the reset input's only adds to the trace, and each
LINE register holds what the line events added say: a role driven successfully its level, a failed call `Unknown`, and
otherwise what it held; but the step at which OPEN returns `Ok` leaves a role without a line `Unknown`. -/
def Obligations.LineRegistersFollowTheTrace : Prop :=
  ∀ (s t : State), s.inbox.head? ≠ some .reset → step s = .next t →
    ∃ es, t.trace = s.trace ++ es ∧
      ∀ r, getLine r t =
        if .ret .openOp .ok ∈ es ∧ t.cfg.pins.ctl r = none then .unknown
        else lineAfterEvents s.par r (getLine r s) es

/-! ### The laws of an operation -/

/-- R130: in the trace of one operation there is at most one latch pulse, and exactly one where the operation asked for
it (a WRITE under `DIRECT_UPDATE`, a batch with `latch_at_end`, which admission records in `LATCH_REQ` and no step of
the operation changes), LATCH is assigned and no step before `Latching` failed; and no reset pulse. -/
def Obligations.LatchCountLaw : Prop :=
  (∀ (s t : State), Inv s → OpInv s → OpEnds s t →
    latchPulses (opEvents t) ≤ 1 ∧
    (latchPulses (opEvents t) = 1 ↔ s.latchReq = true ∧ s.cfg.pins.latch ≠ none ∧ confirmedSoFar s) ∧
    (s.mode = .direct → s.latchReq = (!s.rdback && s.par.directUpdate)) ∧
    resetPulses (opEvents t) = 0) ∧
  (∀ (s t : State) (ws : List RegisterWord) (l : Bool), s.fsm = .idle → exec (.hostWriteBatch ws l) s = .next t →
    t.fsm = .submitting → t.mode = .pipelined ∧ t.latchReq = l) ∧
  (∀ (s t : State), step s = .next t → s.fsm ≠ .idle → t.fsm ≠ .idle →
    t.latchReq = s.latchReq ∧ t.mode = s.mode ∧ t.rdback = s.rdback ∧ t.opStart = s.opStart)

/-- R163: an operation that ends with an error other than the failure of the latch pulse itself pulsed no latch. -/
def Obligations.FailedOperationIsNeverLatched : Prop :=
  ∀ (s t : State) (e : Error), Inv s → OpInv s → OpEnds s t → t.result = .err e → s.fsm ≠ .latching →
    latchPulses (opEvents t) = 0

/-- R162: a batch that asked for the latch and returns Ok with LATCH assigned: its events are the submissions of its
slots in their order, the wait for all of them (none for an empty batch), the one latch pulse and, last, the `Ret`. -/
def Obligations.LatchFollowsTheLastCompletion : Prop :=
  ∀ (s t : State) (T : FamilyTable), Inv s → OpInv s → OpEnds s t → sessionTable? s = some T → s.mode = .pipelined →
    s.latchReq = true → t.result = .ok → s.cfg.pins.latch ≠ none →
    latchPulses (opEvents t) = 1 ∧ t.trace = s.trace ++ [.ret .writeBatchOp .ok] ∧
    engineEvents t = List.zipWith (fun id f => Event.sub id f T.W) (s.ids.take s.n) (s.frame.take s.n) ++
      (if s.n = 0 then [] else [.await (s.ids.take s.n) .ok]) ++ [.pulse .latch T.tLatchHoldMin true]

/-- R161: in a batch that returns Ok the frames submitted are those of its slots, in word order and no other, which
admission filled with the encoded words and no step of the operation changes; and each transfer was performed exactly
once, successfully, before the wait returned. -/
def Obligations.DeliveryLaw : Prop :=
  (∀ (s t : State), Inv s → OpInv s → PerfInv s → OpEnds s t → s.mode = .pipelined → t.result = .ok →
    subFrames (opEvents t) = s.frame.take s.n ∧ subIds (opEvents t) = s.ids.take s.n ∧
    (s.n ≠ 0 → ∃ before after, t.trace = before ++ .await (s.ids.take s.n) .ok :: after ∧
      ∀ id ∈ s.ids.take s.n, .perf id true ∈ before ∧ perfCount id t.trace = 1)) ∧
  (∀ (s t : State) (T : FamilyTable) (ws : List RegisterWord) (l : Bool), s.fsm = .idle → sessionTable? s = some T →
    exec (.hostWriteBatch ws l) s = .next t → t.fsm = .submitting →
    ws.map (encodeValue T) = (t.frame.take t.n).map .ok) ∧
  (∀ (s t : State), step s = .next t → s.fsm ≠ .idle → t.fsm ≠ .idle → t.frame = s.frame ∧ t.n = s.n)

/-! ### Whole operations -/

/-- 42_transfer_engine.md §1 (R140) with R58 and R128: a WRITE on a session whose one transfer succeeds: SYNC low, the
frame, its performance, the wait, SYNC high, then the latch pulse exactly where `DIRECT_UPDATE` is true and LATCH is
assigned, `Ok`. (That the id is the counter `nextId` is assumption 8.) -/
def Obligations.DirectWriteRuns : Prop :=
  ∀ (s : State) (T : FamilyTable) (w : RegisterWord) (f rx : Nat) (answers : List Bool) (rest : List Input),
    Inv s → s.sessionValid = true → s.fsm = .idle → sessionTable? s = some T → w.portWf = true →
    encodeValue T w = .ok f → s.lineAnswers = true :: true :: true :: answers →
    outstandingOf s.transport s.cfg.handle < queueDepth s.transport s.cfg.handle →
    let id := s.transport.nextId
    let pulsed := s.par.directUpdate = true ∧ s.cfg.pins.latch ≠ none
    s.inbox = .port (encode (.hostWrite w)) :: runs 3 ++ .move (.perf id true rx) ::
      runs (if s.par.directUpdate then 7 else 6) ++ rest →
    ∃ t, runSteps (if s.par.directUpdate then 12 else 11) s = .next t ∧
      t.trace = s.trace ++ [.line .sync .low true, .sub id f T.W, .perf id true, .await [id] .ok,
        .line .sync .high true] ++ (if pulsed then [.pulse .latch T.tLatchHoldMin true] else []) ++
        [.ret .writeOp .ok] ∧
      t = { s with
        frame := f :: s.frame.drop 1, ids := s.ids.set 0 id, n := 1, subIdx := 1, failed := false
        latchReq := s.par.directUpdate, mode := .direct, rdback := false, res := .ok, result := .ok
        lineSync := .known .high, lineLatch := if pulsed then .known s.par.latchIdle else s.lineLatch
        lineAnswers := if pulsed then answers else true :: answers
        transport := { s.transport with nextId := id + 1 }, inbox := rest, opStart := s.trace.length
        trace := t.trace }

/-- 42_transfer_engine.md §3 (R155, R156): a READ whose transfer succeeds ends with what DECODE makes of the bytes the
transport sampled, which are any bytes: a word, or `MalformedFrame`. (That the id is the counter `nextId` is assumption
8.) -/
def Obligations.ReadReturnsTheDecodedBytes : Prop :=
  ∀ (s : State) (T : FamilyTable) (w : RegisterWord) (f rx : Nat) (answers : List Bool) (rest : List Input),
    Inv s → s.sessionValid = true → s.fsm = .idle → sessionTable? s = some T → w.portWf = true →
    T.bidirectional = true → s.cfg.pins.din ≠ none → encodeValue T w = .ok f →
    s.lineAnswers = true :: true :: answers → rx < 2 ^ T.W →
    outstandingOf s.transport s.cfg.handle < queueDepth s.transport s.cfg.handle →
    let id := s.transport.nextId
    s.inbox = .port (encode (.hostRead w)) :: runs 3 ++ .move (.perf id true rx) :: runs 6 ++ rest →
    ∃ t r, runSteps 11 s = .next t ∧
      ((∃ v, decodeWord T (frameBytes T.W rx) = .ok v ∧ r = .okWord v) ∨
        (decodeWord T (frameBytes T.W rx) = .error .malformedFrame ∧ r = .err .malformedFrame)) ∧
      t.trace = s.trace ++ [.line .sync .low true, .sub id f T.W, .perf id true, .await [id] .ok,
        .line .sync .high true, .ret .readOp r] ∧
      t.rx = frameBytes T.W rx ∧ t.result = r ∧ t.fsm = .idle ∧ t.lineSync = .known .high ∧ t.inbox = rest

/-- R56 and R161, R162 over a whole run: a batch of one or more words, with `latch_at_end` or without, on any pins,
whose transfers the transport performs in any order, each at any time after its submission: the frames in word order,
one wait that names all of them, one latch pulse exactly where it is asked for and LATCH is assigned, `Ok`. (That the
ids are consecutive counter values is assumption 8.) -/
def Obligations.BatchRunsInAnyCompletionOrder : Prop :=
  ∀ (s : State) (T : FamilyTable) (ws : List RegisterWord) (fs : List Nat) (l : Bool) (moves : List EnvMove)
    (rx : Nat → Nat) (answers : List Bool) (rest : List Input),
    Inv s → s.sessionValid = true → s.fsm = .idle → sessionTable? s = some T → ws ≠ [] →
    ws.length ≤ s.cfg.depth → (Instr.hostWriteBatch ws l).wf = true → ws.map (encodeValue T) = fs.map .ok →
    s.lineAnswers = true :: answers →
    outstandingOf s.transport s.cfg.handle + ws.length ≤ queueDepth s.transport s.cfg.handle →
    let id (k : Nat) := s.transport.nextId + k
    let ids := (List.range ws.length).map id
    let pulsed := l = true ∧ s.cfg.pins.latch ≠ none
    moves.count .run = ws.length + 2 → moves.length = 2 * ws.length + 2 →
    (∀ k < ws.length, ∃ before after, moves = before ++ .perf (id k) true (rx k) :: after ∧
      k + 2 ≤ before.count .run) →
    s.inbox = .port (encode (.hostWriteBatch ws l)) :: moves.map .move ++ runs (if l then 7 else 6) ++ rest →
    ∃ t es, runSteps (moves.length + if l then 8 else 7) s = .next t ∧
      t.trace = s.trace ++ es ++ [.await ids .ok] ++ (if pulsed then [.pulse .latch T.tLatchHoldMin true] else []) ++
        [.ret .writeBatchOp .ok] ∧
      es.filter isEngineEvent = List.zipWith (fun i f => .sub i f T.W) ids fs ∧
      es.filter (fun e => !isEngineEvent e) = moves.filterMap (fun
        | .perf i ok _ => some (.perf i ok)
        | _ => none) ∧
      t.fsm = .idle ∧ t.result = .ok ∧ t.lineSync = s.lineSync ∧
      t.lineLatch = (if pulsed then .known s.par.latchIdle else s.lineLatch) ∧
      t.lineAnswers = (if pulsed then answers else true :: answers) ∧
      t.transport.outstanding = s.transport.outstanding ∧ t.transport.completions = s.transport.completions ∧
      t.inbox = rest

/-- R201 over a whole run: a batch one or more of whose transfers fail ends with `BatchPartialFailure` and no latch
pulse, in whatever order the transport performs them. (That the ids are consecutive counter values is assumption 8.) -/
def Obligations.PartialFailureSkipsTheLatch : Prop :=
  ∀ (s : State) (T : FamilyTable) (ws : List RegisterWord) (fs order : List Nat) (ok : Nat → Bool) (rx : Nat → Nat)
    (l : Bool) (rest : List Input),
    Inv s → s.sessionValid = true → s.fsm = .idle → sessionTable? s = some T →
    ws.length ≤ s.cfg.depth → (Instr.hostWriteBatch ws l).wf = true → ws.map (encodeValue T) = fs.map .ok →
    outstandingOf s.transport s.cfg.handle + ws.length ≤ queueDepth s.transport s.cfg.handle →
    let id (k : Nat) := s.transport.nextId + k
    let ids := (List.range ws.length).map id
    order.Perm (List.range ws.length) → (∃ k < ws.length, ok k = false) →
    s.inbox = .port (encode (.hostWriteBatch ws l)) :: runs (ws.length + 2) ++
      order.map (fun k => .move (.perf (id k) (ok k) (rx k))) ++ runs 4 ++ rest →
    ∃ t, runSteps (2 * ws.length + 7) s = .next t ∧
      t.trace = s.trace ++ List.zipWith (fun i f => .sub i f T.W) ids fs ++
        order.map (fun k => .perf (id k) (ok k)) ++
        [.await ids .transportFailure, .ret .writeBatchOp (.err .batchPartialFailure)] ∧
      t.fsm = .idle ∧ t.result = .err .batchPartialFailure ∧ t.lineLatch = s.lineLatch ∧
      t.lineAnswers = s.lineAnswers ∧ t.inbox = rest

/-- R150: an empty batch is admitted, submits nothing and waits for nothing; its whole trace is the latch pulse and the
`Ret`, or the `Ret` alone where `latch_at_end` is false or LATCH is unassigned. -/
def Obligations.EmptyBatchOnlyLatches : Prop :=
  ∀ (s : State) (T : FamilyTable) (l : Bool) (answers : List Bool) (rest : List Input),
    Inv s → s.sessionValid = true → s.fsm = .idle → sessionTable? s = some T → s.lineAnswers = true :: answers →
    s.inbox = .port (encode (.hostWriteBatch [] l)) :: runs (if l then 9 else 8) ++ rest →
    let pulsed := l = true ∧ s.cfg.pins.latch ≠ none
    ∃ t, runSteps (if l then 10 else 9) s = .next t ∧
      t.trace = s.trace ++ (if pulsed then [.pulse .latch T.tLatchHoldMin true] else []) ++ [.ret .writeBatchOp .ok] ∧
      t.fsm = .idle ∧ t.result = .ok ∧ t.transport = s.transport ∧ t.lineSync = s.lineSync ∧ t.inbox = rest ∧
      t.lineLatch = (if pulsed then .known s.par.latchIdle else s.lineLatch)

/-- 70_reset_and_hazards.md §4 (R238): no operation runs on for ever but by the wait: each engine step of an operation
in flight that is not waiting brings it nearer its end. -/
def Obligations.EngineStepsMakeProgress : Prop :=
  ∀ (s t : State), Inv s → s.fsm ≠ .idle → ¬ Waiting s → engineStep s = .next t → remaining t < remaining s

/-- 42_transfer_engine.md §2 (R153) and 70_reset_and_hazards.md §4: once the wait is over, the operation ends within six
engine moves, whatever the line driver answers, with one `Ret`, the value written to `RESULT`. -/
def Obligations.OperationEndsAfterTheWait : Prop :=
  ∀ (s : State) (rest : List Input), Inv s → s.fsm ≠ .idle → beforeAwait s.pc = false → s.inbox = runs 6 ++ rest →
    ∃ k t es, k ≤ 6 ∧ runSteps k s = .next t ∧ t.fsm = .idle ∧ t.trace = s.trace ++ es ++ [.ret (opInFlight s) t.result] ∧
      ∀ op r, .ret op r ∉ es

/-! ### Invariants -/

/-- Every step keeps the invariant of the registers: R13's counts, R20 and R21's session, the engine's line belonging to
the state `FSM` is in, a flag only in the states that allow it, a held transfer behind every id the engine waits for,
and distinct ids (42_transfer_engine.md §2, 10_state.md §2 to §5). -/
def Obligations.RegisterInvariantIsKept : Prop :=
  ∀ s t : State, Inv s → step s = .next t → Inv t

/-- The invariants hold of the machine after reset. -/
def Obligations.InvariantsHoldAtReset : Prop :=
  Inv State.reset ∧ OpInv State.reset ∧ PerfInv State.reset ∧ LineInv State.reset ∧ IdInv State.reset ∧
  DepthInv State.reset

/-- In a state that meets the invariant no step faults (both faults are this model's own, assumption 18), and the one
refusal is that of a presented OPEN whose operands R180 says cannot be expressed (assumption 11). -/
def Obligations.InvariantRulesOutFaults : Prop :=
  ∀ s : State, Inv s → (∀ f : Fault, step s ≠ .fault f) ∧
    ∀ r : Refusal, step s = .refused r → r = .notExpressible ∧
      ∃ w h c, s.inbox.head? = some (.port w) ∧ decode w = .instr (.hostOpen h c) ∧ s.sessionValid = false ∧
        (s.par.table? c.deviceFamily = none ∨ c.pipelineDepth = 0 ∨ s.par.maxDepth < c.pipelineDepth)

/-- Every step keeps the invariant of the operation's trace: the submissions are the slots in word order (R54), the
events of an operation without failure are those R143 lists in R56 and R58's order, a failed operation has no latch
pulse (R163), and none has a reset pulse (R130). -/
def Obligations.OperationTraceIsKept : Prop :=
  ∀ s t : State, Inv s → PerfInv s → OpInv s → step s = .next t → OpInv t

/-- 41_sequencer.md (the inference of R129), carried through operations: while no line call has failed, SYNC is low
exactly while a Direct operation holds it, and otherwise each assigned line stands at its idle level. -/
def Obligations.LinesStandAtTheirLevels : Prop :=
  ∀ s t : State, Inv s → LineInv s → step s = .next t → LineInv t

/-- 20_memory.md §7 (R61, R44, R42): no transfer is performed twice, before it was submitted or while outstanding; every
id returned is older than the next; and no queue holds more than its depth. A step adds at most one event to the trace,
so that a performance can fall between any two events (R55). -/
def Obligations.TransportHistoryIsKept : Prop :=
  ∀ s t : State, Inv s → step s = .next t →
    (PerfInv s → PerfInv t) ∧ (IdInv s → IdInv t) ∧ (DepthInv s → DepthInv t) ∧
    ∃ es, t.trace = s.trace ++ es ∧ es.length ≤ 1

/-- R42 and R56: the id of a submission was returned by no submission before; and an answer `Ok` of the wait comes after
the successful performance of every transfer it names. -/
def Obligations.IdsAreFreshAndOkMeansPerformed : Prop :=
  ∀ s t : State, Inv s → IdInv s → PerfInv s → step s = .next t →
    (∀ id f n, t.trace = s.trace ++ [.sub id f n] → id ∉ subIds s.trace) ∧
    (∀ ids, t.trace = s.trace ++ [.await ids .ok] → ∀ id ∈ ids, .perf id true ∈ s.trace)

/-- 10_state.md §5 (R20, R21) and R84: parameters never change; a session is made by a successful OPEN alone, with the
operands of that OPEN, and from then on its configuration stays as it is until the reset input, which alone ends it.
(That an OPEN's last line is a step of its own, its operands held in `opening`, is assumption 5.) -/
def Obligations.SessionIsMadeByOpenAlone : Prop :=
  ∀ s t : State, Inv s → step s = .next t →
    t.par = s.par ∧
    (s.inbox.head? = some .reset → t.sessionValid = false ∧ t.opening = none) ∧
    (s.inbox.head? ≠ some .reset →
      (s.sessionValid = true → t.sessionValid = true ∧ t.cfg = s.cfg) ∧
      (t.sessionValid = false → t.cfg = s.cfg) ∧
      (s.sessionValid = false → t.sessionValid = true →
        ∃ o, s.opening = some o ∧ o.line = .done ∧ t.result = .ok ∧
          t.cfg = ⟨o.cfg.deviceFamily, o.cfg.pins, o.handle, o.cfg.pipelineDepth, o.cfg.clockFreq⟩) ∧
      (∀ o, t.opening = some o →
        (∃ q, s.opening = some q ∧ q.handle = o.handle ∧ q.cfg = o.cfg) ∨
        ∃ w, s.inbox.head? = some (.port w) ∧ decode w = .instr (.hostOpen o.handle o.cfg) ∧ o.line = .sync))

/-- 70_reset_and_hazards.md §1 (R220 to R222) and §5 (R239): the reset input clears the session, idles `FSM` and forgets
the lines; it makes no event and touches neither the transport nor the parameters; an OPEN in progress is abandoned too,
and the run has not ended while the operation that was abandoned is the last one. (What the other registers hold after
it is assumption 1; that the state marks the abandoned operation is assumption 20.) -/
def Obligations.ResetInputForgetsSilently : Prop :=
  ∀ (s : State) (rest : List Input), s.inbox = .reset :: rest →
    ∃ t, step s = .next t ∧ t.sessionValid = false ∧ t.fsm = .idle ∧ t.lineSync = .unknown ∧ t.lineLatch = .unknown ∧
      t.lineReset = .unknown ∧ t.trace = s.trace ∧ t.transport = s.transport ∧ t.par = s.par ∧ t.inbox = rest ∧
      t.lineAnswers = s.lineAnswers ∧ t.opening = none ∧ (operationInFlight s = true → ¬ RunEnded t)

/-- R32: the machine after reset has no session, is idle, knows no line's level, and has driven and submitted nothing;
no move of the engine or of the environment changes it, so that however many come, no event is made there; and every
operation but OPEN answers `NoSession`. -/
def Obligations.ResetStateIsSilent : Prop :=
  State.reset.sessionValid = false ∧ State.reset.fsm = .idle ∧ State.reset.lineSync = .unknown ∧
  State.reset.lineLatch = .unknown ∧ State.reset.lineReset = .unknown ∧ State.reset.trace = [] ∧
  State.reset.transport.outstanding = [] ∧ (∀ m, envStep m State.reset = .next State.reset) ∧
  (∀ w t, exec (.hostWrite w) State.reset = .next t → t.result = .err .noSession) ∧
  (∀ ws l t, exec (.hostWriteBatch ws l) State.reset = .next t → t.result = .err .noSession) ∧
  (∀ w t, exec (.hostRead w) State.reset = .next t → t.result = .err .noSession)
end

