-- ==== Sys2Proof/Laws/State.lean ====
section
/-! SUPPORT. What every update of the state leaves in each field: one lemma per field per update, so that no later proof
unfolds one. -/

namespace Sys2Proof.Machine

/-! `emit` writes the trace. -/

@[simp] theorem emit_sessionValid (e : Event) (s : State) : (emit e s).sessionValid = s.sessionValid := rfl
@[simp] theorem emit_cfg (e : Event) (s : State) : (emit e s).cfg = s.cfg := rfl
@[simp] theorem emit_fsm (e : Event) (s : State) : (emit e s).fsm = s.fsm := rfl
@[simp] theorem emit_mode (e : Event) (s : State) : (emit e s).mode = s.mode := rfl
@[simp] theorem emit_rdback (e : Event) (s : State) : (emit e s).rdback = s.rdback := rfl
@[simp] theorem emit_n (e : Event) (s : State) : (emit e s).n = s.n := rfl
@[simp] theorem emit_subIdx (e : Event) (s : State) : (emit e s).subIdx = s.subIdx := rfl
@[simp] theorem emit_frame (e : Event) (s : State) : (emit e s).frame = s.frame := rfl
@[simp] theorem emit_ids (e : Event) (s : State) : (emit e s).ids = s.ids := rfl
@[simp] theorem emit_rx (e : Event) (s : State) : (emit e s).rx = s.rx := rfl
@[simp] theorem emit_latchReq (e : Event) (s : State) : (emit e s).latchReq = s.latchReq := rfl
@[simp] theorem emit_failed (e : Event) (s : State) : (emit e s).failed = s.failed := rfl
@[simp] theorem emit_err (e : Event) (s : State) : (emit e s).err = s.err := rfl
@[simp] theorem emit_lineSync (e : Event) (s : State) : (emit e s).lineSync = s.lineSync := rfl
@[simp] theorem emit_lineLatch (e : Event) (s : State) : (emit e s).lineLatch = s.lineLatch := rfl
@[simp] theorem emit_lineReset (e : Event) (s : State) : (emit e s).lineReset = s.lineReset := rfl
@[simp] theorem emit_result (e : Event) (s : State) : (emit e s).result = s.result := rfl
@[simp] theorem emit_pc (e : Event) (s : State) : (emit e s).pc = s.pc := rfl
@[simp] theorem emit_res (e : Event) (s : State) : (emit e s).res = s.res := rfl
@[simp] theorem emit_opening (e : Event) (s : State) : (emit e s).opening = s.opening := rfl
@[simp] theorem emit_par (e : Event) (s : State) : (emit e s).par = s.par := rfl
@[simp] theorem emit_transport (e : Event) (s : State) : (emit e s).transport = s.transport := rfl
@[simp] theorem emit_inbox (e : Event) (s : State) : (emit e s).inbox = s.inbox := rfl
@[simp] theorem emit_lineAnswers (e : Event) (s : State) : (emit e s).lineAnswers = s.lineAnswers := rfl
@[simp] theorem emit_draws (e : Event) (s : State) : (emit e s).draws = s.draws := rfl
@[simp] theorem emit_codecOut (e : Event) (s : State) : (emit e s).codecOut = s.codecOut := rfl
@[simp] theorem emit_trace (e : Event) (s : State) : (emit e s).trace = s.trace ++ [e] := rfl
@[simp] theorem emit_opStart (e : Event) (s : State) : (emit e s).opStart = s.opStart := rfl
@[simp] theorem emit_abandonedAt (e : Event) (s : State) : (emit e s).abandonedAt = s.abandonedAt := rfl

/-! `refuseOp` writes the result and the trace. -/

@[simp] theorem refuseOp_sessionValid (op : HostOp) (e : Error) (s : State) : (refuseOp op e s).sessionValid = s.sessionValid := rfl
@[simp] theorem refuseOp_cfg (op : HostOp) (e : Error) (s : State) : (refuseOp op e s).cfg = s.cfg := rfl
@[simp] theorem refuseOp_fsm (op : HostOp) (e : Error) (s : State) : (refuseOp op e s).fsm = s.fsm := rfl
@[simp] theorem refuseOp_mode (op : HostOp) (e : Error) (s : State) : (refuseOp op e s).mode = s.mode := rfl
@[simp] theorem refuseOp_rdback (op : HostOp) (e : Error) (s : State) : (refuseOp op e s).rdback = s.rdback := rfl
@[simp] theorem refuseOp_n (op : HostOp) (e : Error) (s : State) : (refuseOp op e s).n = s.n := rfl
@[simp] theorem refuseOp_subIdx (op : HostOp) (e : Error) (s : State) : (refuseOp op e s).subIdx = s.subIdx := rfl
@[simp] theorem refuseOp_frame (op : HostOp) (e : Error) (s : State) : (refuseOp op e s).frame = s.frame := rfl
@[simp] theorem refuseOp_ids (op : HostOp) (e : Error) (s : State) : (refuseOp op e s).ids = s.ids := rfl
@[simp] theorem refuseOp_rx (op : HostOp) (e : Error) (s : State) : (refuseOp op e s).rx = s.rx := rfl
@[simp] theorem refuseOp_latchReq (op : HostOp) (e : Error) (s : State) : (refuseOp op e s).latchReq = s.latchReq := rfl
@[simp] theorem refuseOp_failed (op : HostOp) (e : Error) (s : State) : (refuseOp op e s).failed = s.failed := rfl
@[simp] theorem refuseOp_err (op : HostOp) (e : Error) (s : State) : (refuseOp op e s).err = s.err := rfl
@[simp] theorem refuseOp_lineSync (op : HostOp) (e : Error) (s : State) : (refuseOp op e s).lineSync = s.lineSync := rfl
@[simp] theorem refuseOp_lineLatch (op : HostOp) (e : Error) (s : State) : (refuseOp op e s).lineLatch = s.lineLatch := rfl
@[simp] theorem refuseOp_lineReset (op : HostOp) (e : Error) (s : State) : (refuseOp op e s).lineReset = s.lineReset := rfl
@[simp] theorem refuseOp_result (op : HostOp) (e : Error) (s : State) : (refuseOp op e s).result = .err e := rfl
@[simp] theorem refuseOp_pc (op : HostOp) (e : Error) (s : State) : (refuseOp op e s).pc = s.pc := rfl
@[simp] theorem refuseOp_res (op : HostOp) (e : Error) (s : State) : (refuseOp op e s).res = s.res := rfl
@[simp] theorem refuseOp_opening (op : HostOp) (e : Error) (s : State) : (refuseOp op e s).opening = s.opening := rfl
@[simp] theorem refuseOp_par (op : HostOp) (e : Error) (s : State) : (refuseOp op e s).par = s.par := rfl
@[simp] theorem refuseOp_transport (op : HostOp) (e : Error) (s : State) : (refuseOp op e s).transport = s.transport := rfl
@[simp] theorem refuseOp_inbox (op : HostOp) (e : Error) (s : State) : (refuseOp op e s).inbox = s.inbox := rfl
@[simp] theorem refuseOp_lineAnswers (op : HostOp) (e : Error) (s : State) : (refuseOp op e s).lineAnswers = s.lineAnswers := rfl
@[simp] theorem refuseOp_draws (op : HostOp) (e : Error) (s : State) : (refuseOp op e s).draws = s.draws := rfl
@[simp] theorem refuseOp_codecOut (op : HostOp) (e : Error) (s : State) : (refuseOp op e s).codecOut = s.codecOut := rfl
@[simp] theorem refuseOp_trace (op : HostOp) (e : Error) (s : State) : (refuseOp op e s).trace = s.trace ++ [.ret op (.err e)] := rfl
@[simp] theorem refuseOp_opStart (op : HostOp) (e : Error) (s : State) : (refuseOp op e s).opStart = s.opStart := rfl
@[simp] theorem refuseOp_abandonedAt (op : HostOp) (e : Error) (s : State) : (refuseOp op e s).abandonedAt = s.abandonedAt := rfl

/-! `finishOp` writes `FSM`, the engine's line, the result and the trace. -/

@[simp] theorem finishOp_sessionValid (r : OpResult) (s : State) : (finishOp r s).sessionValid = s.sessionValid := rfl
@[simp] theorem finishOp_cfg (r : OpResult) (s : State) : (finishOp r s).cfg = s.cfg := rfl
@[simp] theorem finishOp_fsm (r : OpResult) (s : State) : (finishOp r s).fsm = .idle := rfl
@[simp] theorem finishOp_mode (r : OpResult) (s : State) : (finishOp r s).mode = s.mode := rfl
@[simp] theorem finishOp_rdback (r : OpResult) (s : State) : (finishOp r s).rdback = s.rdback := rfl
@[simp] theorem finishOp_n (r : OpResult) (s : State) : (finishOp r s).n = s.n := rfl
@[simp] theorem finishOp_subIdx (r : OpResult) (s : State) : (finishOp r s).subIdx = s.subIdx := rfl
@[simp] theorem finishOp_frame (r : OpResult) (s : State) : (finishOp r s).frame = s.frame := rfl
@[simp] theorem finishOp_ids (r : OpResult) (s : State) : (finishOp r s).ids = s.ids := rfl
@[simp] theorem finishOp_rx (r : OpResult) (s : State) : (finishOp r s).rx = s.rx := rfl
@[simp] theorem finishOp_latchReq (r : OpResult) (s : State) : (finishOp r s).latchReq = s.latchReq := rfl
@[simp] theorem finishOp_failed (r : OpResult) (s : State) : (finishOp r s).failed = s.failed := rfl
@[simp] theorem finishOp_err (r : OpResult) (s : State) : (finishOp r s).err = s.err := rfl
@[simp] theorem finishOp_lineSync (r : OpResult) (s : State) : (finishOp r s).lineSync = s.lineSync := rfl
@[simp] theorem finishOp_lineLatch (r : OpResult) (s : State) : (finishOp r s).lineLatch = s.lineLatch := rfl
@[simp] theorem finishOp_lineReset (r : OpResult) (s : State) : (finishOp r s).lineReset = s.lineReset := rfl
@[simp] theorem finishOp_result (r : OpResult) (s : State) : (finishOp r s).result = r := rfl
@[simp] theorem finishOp_pc (r : OpResult) (s : State) : (finishOp r s).pc = .idle := rfl
@[simp] theorem finishOp_res (r : OpResult) (s : State) : (finishOp r s).res = s.res := rfl
@[simp] theorem finishOp_opening (r : OpResult) (s : State) : (finishOp r s).opening = s.opening := rfl
@[simp] theorem finishOp_par (r : OpResult) (s : State) : (finishOp r s).par = s.par := rfl
@[simp] theorem finishOp_transport (r : OpResult) (s : State) : (finishOp r s).transport = s.transport := rfl
@[simp] theorem finishOp_inbox (r : OpResult) (s : State) : (finishOp r s).inbox = s.inbox := rfl
@[simp] theorem finishOp_lineAnswers (r : OpResult) (s : State) : (finishOp r s).lineAnswers = s.lineAnswers := rfl
@[simp] theorem finishOp_draws (r : OpResult) (s : State) : (finishOp r s).draws = s.draws := rfl
@[simp] theorem finishOp_codecOut (r : OpResult) (s : State) : (finishOp r s).codecOut = s.codecOut := rfl
@[simp] theorem finishOp_trace (r : OpResult) (s : State) : (finishOp r s).trace = s.trace ++ [.ret (opInFlight s) r] := rfl
@[simp] theorem finishOp_opStart (r : OpResult) (s : State) : (finishOp r s).opStart = s.opStart := rfl
@[simp] theorem finishOp_abandonedAt (r : OpResult) (s : State) : (finishOp r s).abandonedAt = s.abandonedAt := rfl

/-! `loadEngine` writes the engine registers. -/

@[simp] theorem loadEngine_sessionValid (m : Mode) (b : Bool) (fs : List Nat) (l : Bool) (s : State) : (loadEngine m b fs l s).sessionValid = s.sessionValid := rfl
@[simp] theorem loadEngine_cfg (m : Mode) (b : Bool) (fs : List Nat) (l : Bool) (s : State) : (loadEngine m b fs l s).cfg = s.cfg := rfl
@[simp] theorem loadEngine_fsm (m : Mode) (b : Bool) (fs : List Nat) (l : Bool) (s : State) : (loadEngine m b fs l s).fsm = .submitting := rfl
@[simp] theorem loadEngine_mode (m : Mode) (b : Bool) (fs : List Nat) (l : Bool) (s : State) : (loadEngine m b fs l s).mode = m := rfl
@[simp] theorem loadEngine_rdback (m : Mode) (b : Bool) (fs : List Nat) (l : Bool) (s : State) : (loadEngine m b fs l s).rdback = b := rfl
@[simp] theorem loadEngine_n (m : Mode) (b : Bool) (fs : List Nat) (l : Bool) (s : State) : (loadEngine m b fs l s).n = fs.length := rfl
@[simp] theorem loadEngine_subIdx (m : Mode) (b : Bool) (fs : List Nat) (l : Bool) (s : State) : (loadEngine m b fs l s).subIdx = 0 := rfl
@[simp] theorem loadEngine_frame (m : Mode) (b : Bool) (fs : List Nat) (l : Bool) (s : State) : (loadEngine m b fs l s).frame = fs ++ s.frame.drop fs.length := rfl
@[simp] theorem loadEngine_ids (m : Mode) (b : Bool) (fs : List Nat) (l : Bool) (s : State) : (loadEngine m b fs l s).ids = s.ids := rfl
@[simp] theorem loadEngine_rx (m : Mode) (b : Bool) (fs : List Nat) (l : Bool) (s : State) : (loadEngine m b fs l s).rx = s.rx := rfl
@[simp] theorem loadEngine_latchReq (m : Mode) (b : Bool) (fs : List Nat) (l : Bool) (s : State) : (loadEngine m b fs l s).latchReq = l := rfl
@[simp] theorem loadEngine_failed (m : Mode) (b : Bool) (fs : List Nat) (l : Bool) (s : State) : (loadEngine m b fs l s).failed = false := rfl
@[simp] theorem loadEngine_err (m : Mode) (b : Bool) (fs : List Nat) (l : Bool) (s : State) : (loadEngine m b fs l s).err = s.err := rfl
@[simp] theorem loadEngine_lineSync (m : Mode) (b : Bool) (fs : List Nat) (l : Bool) (s : State) : (loadEngine m b fs l s).lineSync = s.lineSync := rfl
@[simp] theorem loadEngine_lineLatch (m : Mode) (b : Bool) (fs : List Nat) (l : Bool) (s : State) : (loadEngine m b fs l s).lineLatch = s.lineLatch := rfl
@[simp] theorem loadEngine_lineReset (m : Mode) (b : Bool) (fs : List Nat) (l : Bool) (s : State) : (loadEngine m b fs l s).lineReset = s.lineReset := rfl
@[simp] theorem loadEngine_result (m : Mode) (b : Bool) (fs : List Nat) (l : Bool) (s : State) : (loadEngine m b fs l s).result = s.result := rfl
@[simp] theorem loadEngine_pc (m : Mode) (b : Bool) (fs : List Nat) (l : Bool) (s : State) : (loadEngine m b fs l s).pc = .s1 := rfl
@[simp] theorem loadEngine_res (m : Mode) (b : Bool) (fs : List Nat) (l : Bool) (s : State) : (loadEngine m b fs l s).res = s.res := rfl
@[simp] theorem loadEngine_opening (m : Mode) (b : Bool) (fs : List Nat) (l : Bool) (s : State) : (loadEngine m b fs l s).opening = s.opening := rfl
@[simp] theorem loadEngine_par (m : Mode) (b : Bool) (fs : List Nat) (l : Bool) (s : State) : (loadEngine m b fs l s).par = s.par := rfl
@[simp] theorem loadEngine_transport (m : Mode) (b : Bool) (fs : List Nat) (l : Bool) (s : State) : (loadEngine m b fs l s).transport = s.transport := rfl
@[simp] theorem loadEngine_inbox (m : Mode) (b : Bool) (fs : List Nat) (l : Bool) (s : State) : (loadEngine m b fs l s).inbox = s.inbox := rfl
@[simp] theorem loadEngine_lineAnswers (m : Mode) (b : Bool) (fs : List Nat) (l : Bool) (s : State) : (loadEngine m b fs l s).lineAnswers = s.lineAnswers := rfl
@[simp] theorem loadEngine_draws (m : Mode) (b : Bool) (fs : List Nat) (l : Bool) (s : State) : (loadEngine m b fs l s).draws = s.draws := rfl
@[simp] theorem loadEngine_codecOut (m : Mode) (b : Bool) (fs : List Nat) (l : Bool) (s : State) : (loadEngine m b fs l s).codecOut = s.codecOut := rfl
@[simp] theorem loadEngine_trace (m : Mode) (b : Bool) (fs : List Nat) (l : Bool) (s : State) : (loadEngine m b fs l s).trace = s.trace := rfl
@[simp] theorem loadEngine_opStart (m : Mode) (b : Bool) (fs : List Nat) (l : Bool) (s : State) : (loadEngine m b fs l s).opStart = s.trace.length := rfl
@[simp] theorem loadEngine_abandonedAt (m : Mode) (b : Bool) (fs : List Nat) (l : Bool) (s : State) : (loadEngine m b fs l s).abandonedAt = s.abandonedAt := rfl

/-! `establish` writes the session, the line registers, the result and the trace. -/

@[simp] theorem establish_sessionValid (h : Nat) (c : OpenCfg) (s : State) : (establish h c s).sessionValid = true := rfl
@[simp] theorem establish_cfg (h : Nat) (c : OpenCfg) (s : State) : (establish h c s).cfg = ⟨c.deviceFamily, c.pins, h, c.pipelineDepth, c.clockFreq⟩ := rfl
@[simp] theorem establish_fsm (h : Nat) (c : OpenCfg) (s : State) : (establish h c s).fsm = s.fsm := rfl
@[simp] theorem establish_mode (h : Nat) (c : OpenCfg) (s : State) : (establish h c s).mode = s.mode := rfl
@[simp] theorem establish_rdback (h : Nat) (c : OpenCfg) (s : State) : (establish h c s).rdback = s.rdback := rfl
@[simp] theorem establish_n (h : Nat) (c : OpenCfg) (s : State) : (establish h c s).n = s.n := rfl
@[simp] theorem establish_subIdx (h : Nat) (c : OpenCfg) (s : State) : (establish h c s).subIdx = s.subIdx := rfl
@[simp] theorem establish_frame (h : Nat) (c : OpenCfg) (s : State) : (establish h c s).frame = s.frame := rfl
@[simp] theorem establish_ids (h : Nat) (c : OpenCfg) (s : State) : (establish h c s).ids = s.ids := rfl
@[simp] theorem establish_rx (h : Nat) (c : OpenCfg) (s : State) : (establish h c s).rx = s.rx := rfl
@[simp] theorem establish_latchReq (h : Nat) (c : OpenCfg) (s : State) : (establish h c s).latchReq = s.latchReq := rfl
@[simp] theorem establish_failed (h : Nat) (c : OpenCfg) (s : State) : (establish h c s).failed = s.failed := rfl
@[simp] theorem establish_err (h : Nat) (c : OpenCfg) (s : State) : (establish h c s).err = s.err := rfl
@[simp] theorem establish_lineSync (h : Nat) (c : OpenCfg) (s : State) : (establish h c s).lineSync = keepAssigned c.pins.sync s.lineSync := rfl
@[simp] theorem establish_lineLatch (h : Nat) (c : OpenCfg) (s : State) : (establish h c s).lineLatch = keepAssigned c.pins.latch s.lineLatch := rfl
@[simp] theorem establish_lineReset (h : Nat) (c : OpenCfg) (s : State) : (establish h c s).lineReset = keepAssigned c.pins.reset s.lineReset := rfl
@[simp] theorem establish_result (h : Nat) (c : OpenCfg) (s : State) : (establish h c s).result = .ok := rfl
@[simp] theorem establish_pc (h : Nat) (c : OpenCfg) (s : State) : (establish h c s).pc = s.pc := rfl
@[simp] theorem establish_res (h : Nat) (c : OpenCfg) (s : State) : (establish h c s).res = s.res := rfl
@[simp] theorem establish_opening (h : Nat) (c : OpenCfg) (s : State) : (establish h c s).opening = none := rfl
@[simp] theorem establish_par (h : Nat) (c : OpenCfg) (s : State) : (establish h c s).par = s.par := rfl
@[simp] theorem establish_transport (h : Nat) (c : OpenCfg) (s : State) : (establish h c s).transport = s.transport := rfl
@[simp] theorem establish_inbox (h : Nat) (c : OpenCfg) (s : State) : (establish h c s).inbox = s.inbox := rfl
@[simp] theorem establish_lineAnswers (h : Nat) (c : OpenCfg) (s : State) : (establish h c s).lineAnswers = s.lineAnswers := rfl
@[simp] theorem establish_draws (h : Nat) (c : OpenCfg) (s : State) : (establish h c s).draws = s.draws := rfl
@[simp] theorem establish_codecOut (h : Nat) (c : OpenCfg) (s : State) : (establish h c s).codecOut = s.codecOut := rfl
@[simp] theorem establish_trace (h : Nat) (c : OpenCfg) (s : State) : (establish h c s).trace = s.trace ++ [.ret .openOp .ok] := rfl
@[simp] theorem establish_opStart (h : Nat) (c : OpenCfg) (s : State) : (establish h c s).opStart = s.opStart := rfl
@[simp] theorem establish_abandonedAt (h : Nat) (c : OpenCfg) (s : State) : (establish h c s).abandonedAt = s.abandonedAt := rfl

/-! `unassignedOp` writes the result. -/

@[simp] theorem unassignedOp_sessionValid (s : State) : (unassignedOp s).sessionValid = s.sessionValid := rfl
@[simp] theorem unassignedOp_cfg (s : State) : (unassignedOp s).cfg = s.cfg := rfl
@[simp] theorem unassignedOp_fsm (s : State) : (unassignedOp s).fsm = s.fsm := rfl
@[simp] theorem unassignedOp_mode (s : State) : (unassignedOp s).mode = s.mode := rfl
@[simp] theorem unassignedOp_rdback (s : State) : (unassignedOp s).rdback = s.rdback := rfl
@[simp] theorem unassignedOp_n (s : State) : (unassignedOp s).n = s.n := rfl
@[simp] theorem unassignedOp_subIdx (s : State) : (unassignedOp s).subIdx = s.subIdx := rfl
@[simp] theorem unassignedOp_frame (s : State) : (unassignedOp s).frame = s.frame := rfl
@[simp] theorem unassignedOp_ids (s : State) : (unassignedOp s).ids = s.ids := rfl
@[simp] theorem unassignedOp_rx (s : State) : (unassignedOp s).rx = s.rx := rfl
@[simp] theorem unassignedOp_latchReq (s : State) : (unassignedOp s).latchReq = s.latchReq := rfl
@[simp] theorem unassignedOp_failed (s : State) : (unassignedOp s).failed = s.failed := rfl
@[simp] theorem unassignedOp_err (s : State) : (unassignedOp s).err = s.err := rfl
@[simp] theorem unassignedOp_lineSync (s : State) : (unassignedOp s).lineSync = s.lineSync := rfl
@[simp] theorem unassignedOp_lineLatch (s : State) : (unassignedOp s).lineLatch = s.lineLatch := rfl
@[simp] theorem unassignedOp_lineReset (s : State) : (unassignedOp s).lineReset = s.lineReset := rfl
@[simp] theorem unassignedOp_result (s : State) : (unassignedOp s).result = .err .unsupportedField := rfl
@[simp] theorem unassignedOp_pc (s : State) : (unassignedOp s).pc = s.pc := rfl
@[simp] theorem unassignedOp_res (s : State) : (unassignedOp s).res = s.res := rfl
@[simp] theorem unassignedOp_opening (s : State) : (unassignedOp s).opening = s.opening := rfl
@[simp] theorem unassignedOp_par (s : State) : (unassignedOp s).par = s.par := rfl
@[simp] theorem unassignedOp_transport (s : State) : (unassignedOp s).transport = s.transport := rfl
@[simp] theorem unassignedOp_inbox (s : State) : (unassignedOp s).inbox = s.inbox := rfl
@[simp] theorem unassignedOp_lineAnswers (s : State) : (unassignedOp s).lineAnswers = s.lineAnswers := rfl
@[simp] theorem unassignedOp_draws (s : State) : (unassignedOp s).draws = s.draws := rfl
@[simp] theorem unassignedOp_codecOut (s : State) : (unassignedOp s).codecOut = s.codecOut := rfl
@[simp] theorem unassignedOp_trace (s : State) : (unassignedOp s).trace = s.trace := rfl
@[simp] theorem unassignedOp_opStart (s : State) : (unassignedOp s).opStart = s.opStart := rfl
@[simp] theorem unassignedOp_abandonedAt (s : State) : (unassignedOp s).abandonedAt = s.abandonedAt := rfl

/-! `malformedWord` writes the codec's window. -/

@[simp] theorem malformedWord_sessionValid (s : State) : (malformedWord s).sessionValid = s.sessionValid := rfl
@[simp] theorem malformedWord_cfg (s : State) : (malformedWord s).cfg = s.cfg := rfl
@[simp] theorem malformedWord_fsm (s : State) : (malformedWord s).fsm = s.fsm := rfl
@[simp] theorem malformedWord_mode (s : State) : (malformedWord s).mode = s.mode := rfl
@[simp] theorem malformedWord_rdback (s : State) : (malformedWord s).rdback = s.rdback := rfl
@[simp] theorem malformedWord_n (s : State) : (malformedWord s).n = s.n := rfl
@[simp] theorem malformedWord_subIdx (s : State) : (malformedWord s).subIdx = s.subIdx := rfl
@[simp] theorem malformedWord_frame (s : State) : (malformedWord s).frame = s.frame := rfl
@[simp] theorem malformedWord_ids (s : State) : (malformedWord s).ids = s.ids := rfl
@[simp] theorem malformedWord_rx (s : State) : (malformedWord s).rx = s.rx := rfl
@[simp] theorem malformedWord_latchReq (s : State) : (malformedWord s).latchReq = s.latchReq := rfl
@[simp] theorem malformedWord_failed (s : State) : (malformedWord s).failed = s.failed := rfl
@[simp] theorem malformedWord_err (s : State) : (malformedWord s).err = s.err := rfl
@[simp] theorem malformedWord_lineSync (s : State) : (malformedWord s).lineSync = s.lineSync := rfl
@[simp] theorem malformedWord_lineLatch (s : State) : (malformedWord s).lineLatch = s.lineLatch := rfl
@[simp] theorem malformedWord_lineReset (s : State) : (malformedWord s).lineReset = s.lineReset := rfl
@[simp] theorem malformedWord_result (s : State) : (malformedWord s).result = s.result := rfl
@[simp] theorem malformedWord_pc (s : State) : (malformedWord s).pc = s.pc := rfl
@[simp] theorem malformedWord_res (s : State) : (malformedWord s).res = s.res := rfl
@[simp] theorem malformedWord_opening (s : State) : (malformedWord s).opening = s.opening := rfl
@[simp] theorem malformedWord_par (s : State) : (malformedWord s).par = s.par := rfl
@[simp] theorem malformedWord_transport (s : State) : (malformedWord s).transport = s.transport := rfl
@[simp] theorem malformedWord_inbox (s : State) : (malformedWord s).inbox = s.inbox := rfl
@[simp] theorem malformedWord_lineAnswers (s : State) : (malformedWord s).lineAnswers = s.lineAnswers := rfl
@[simp] theorem malformedWord_draws (s : State) : (malformedWord s).draws = s.draws := rfl
@[simp] theorem malformedWord_codecOut (s : State) : (malformedWord s).codecOut = .error .malformedFrame := rfl
@[simp] theorem malformedWord_trace (s : State) : (malformedWord s).trace = s.trace := rfl
@[simp] theorem malformedWord_opStart (s : State) : (malformedWord s).opStart = s.opStart := rfl
@[simp] theorem malformedWord_abandonedAt (s : State) : (malformedWord s).abandonedAt = s.abandonedAt := rfl

/-! `hardwareReset` writes the block's registers and nothing else. -/

@[simp] theorem hardwareReset_sessionValid (s : State) : (hardwareReset s).sessionValid = false := rfl
@[simp] theorem hardwareReset_cfg (s : State) : (hardwareReset s).cfg = ⟨0, ⟨none, none, none, none, none, none⟩, 0, 0, 0⟩ := rfl
@[simp] theorem hardwareReset_fsm (s : State) : (hardwareReset s).fsm = .idle := rfl
@[simp] theorem hardwareReset_mode (s : State) : (hardwareReset s).mode = .direct := rfl
@[simp] theorem hardwareReset_rdback (s : State) : (hardwareReset s).rdback = false := rfl
@[simp] theorem hardwareReset_n (s : State) : (hardwareReset s).n = 0 := rfl
@[simp] theorem hardwareReset_subIdx (s : State) : (hardwareReset s).subIdx = 0 := rfl
@[simp] theorem hardwareReset_frame (s : State) : (hardwareReset s).frame = List.replicate s.par.maxDepth 0 := rfl
@[simp] theorem hardwareReset_ids (s : State) : (hardwareReset s).ids = List.replicate s.par.maxDepth 0 := rfl
@[simp] theorem hardwareReset_rx (s : State) : (hardwareReset s).rx = [] := rfl
@[simp] theorem hardwareReset_latchReq (s : State) : (hardwareReset s).latchReq = false := rfl
@[simp] theorem hardwareReset_failed (s : State) : (hardwareReset s).failed = false := rfl
@[simp] theorem hardwareReset_err (s : State) : (hardwareReset s).err = .unsupportedField := rfl
@[simp] theorem hardwareReset_lineSync (s : State) : (hardwareReset s).lineSync = .unknown := rfl
@[simp] theorem hardwareReset_lineLatch (s : State) : (hardwareReset s).lineLatch = .unknown := rfl
@[simp] theorem hardwareReset_lineReset (s : State) : (hardwareReset s).lineReset = .unknown := rfl
@[simp] theorem hardwareReset_result (s : State) : (hardwareReset s).result = .ok := rfl
@[simp] theorem hardwareReset_pc (s : State) : (hardwareReset s).pc = .idle := rfl
@[simp] theorem hardwareReset_res (s : State) : (hardwareReset s).res = .ok := rfl
@[simp] theorem hardwareReset_opening (s : State) : (hardwareReset s).opening = none := rfl
@[simp] theorem hardwareReset_par (s : State) : (hardwareReset s).par = s.par := rfl
@[simp] theorem hardwareReset_transport (s : State) : (hardwareReset s).transport = s.transport := rfl
@[simp] theorem hardwareReset_inbox (s : State) : (hardwareReset s).inbox = s.inbox := rfl
@[simp] theorem hardwareReset_lineAnswers (s : State) : (hardwareReset s).lineAnswers = s.lineAnswers := rfl
@[simp] theorem hardwareReset_draws (s : State) : (hardwareReset s).draws = s.draws := rfl
@[simp] theorem hardwareReset_codecOut (s : State) : (hardwareReset s).codecOut = s.codecOut := rfl
@[simp] theorem hardwareReset_trace (s : State) : (hardwareReset s).trace = s.trace := rfl
@[simp] theorem hardwareReset_opStart (s : State) : (hardwareReset s).opStart = s.opStart := rfl
@[simp] theorem hardwareReset_abandonedAt (s : State) : (hardwareReset s).abandonedAt = if operationInFlight s then some s.trace.length else s.abandonedAt := rfl

/-! `recordError` writes `FAIL` and `ERR`, and only where no error is recorded. -/

@[simp] theorem recordError_sessionValid (e : Error) (s : State) : (recordError e s).sessionValid = s.sessionValid := by
  unfold recordError; split <;> simp_all
@[simp] theorem recordError_cfg (e : Error) (s : State) : (recordError e s).cfg = s.cfg := by
  unfold recordError; split <;> simp_all
@[simp] theorem recordError_fsm (e : Error) (s : State) : (recordError e s).fsm = s.fsm := by
  unfold recordError; split <;> simp_all
@[simp] theorem recordError_mode (e : Error) (s : State) : (recordError e s).mode = s.mode := by
  unfold recordError; split <;> simp_all
@[simp] theorem recordError_rdback (e : Error) (s : State) : (recordError e s).rdback = s.rdback := by
  unfold recordError; split <;> simp_all
@[simp] theorem recordError_n (e : Error) (s : State) : (recordError e s).n = s.n := by
  unfold recordError; split <;> simp_all
@[simp] theorem recordError_subIdx (e : Error) (s : State) : (recordError e s).subIdx = s.subIdx := by
  unfold recordError; split <;> simp_all
@[simp] theorem recordError_frame (e : Error) (s : State) : (recordError e s).frame = s.frame := by
  unfold recordError; split <;> simp_all
@[simp] theorem recordError_ids (e : Error) (s : State) : (recordError e s).ids = s.ids := by
  unfold recordError; split <;> simp_all
@[simp] theorem recordError_rx (e : Error) (s : State) : (recordError e s).rx = s.rx := by
  unfold recordError; split <;> simp_all
@[simp] theorem recordError_latchReq (e : Error) (s : State) : (recordError e s).latchReq = s.latchReq := by
  unfold recordError; split <;> simp_all
@[simp] theorem recordError_failed (e : Error) (s : State) : (recordError e s).failed = true := by
  unfold recordError; split <;> simp_all
@[simp] theorem recordError_err (e : Error) (s : State) : (recordError e s).err = if s.failed then s.err else e := by
  unfold recordError; split <;> simp_all
@[simp] theorem recordError_lineSync (e : Error) (s : State) : (recordError e s).lineSync = s.lineSync := by
  unfold recordError; split <;> simp_all
@[simp] theorem recordError_lineLatch (e : Error) (s : State) : (recordError e s).lineLatch = s.lineLatch := by
  unfold recordError; split <;> simp_all
@[simp] theorem recordError_lineReset (e : Error) (s : State) : (recordError e s).lineReset = s.lineReset := by
  unfold recordError; split <;> simp_all
@[simp] theorem recordError_result (e : Error) (s : State) : (recordError e s).result = s.result := by
  unfold recordError; split <;> simp_all
@[simp] theorem recordError_pc (e : Error) (s : State) : (recordError e s).pc = s.pc := by
  unfold recordError; split <;> simp_all
@[simp] theorem recordError_res (e : Error) (s : State) : (recordError e s).res = s.res := by
  unfold recordError; split <;> simp_all
@[simp] theorem recordError_opening (e : Error) (s : State) : (recordError e s).opening = s.opening := by
  unfold recordError; split <;> simp_all
@[simp] theorem recordError_par (e : Error) (s : State) : (recordError e s).par = s.par := by
  unfold recordError; split <;> simp_all
@[simp] theorem recordError_transport (e : Error) (s : State) : (recordError e s).transport = s.transport := by
  unfold recordError; split <;> simp_all
@[simp] theorem recordError_inbox (e : Error) (s : State) : (recordError e s).inbox = s.inbox := by
  unfold recordError; split <;> simp_all
@[simp] theorem recordError_lineAnswers (e : Error) (s : State) : (recordError e s).lineAnswers = s.lineAnswers := by
  unfold recordError; split <;> simp_all
@[simp] theorem recordError_draws (e : Error) (s : State) : (recordError e s).draws = s.draws := by
  unfold recordError; split <;> simp_all
@[simp] theorem recordError_codecOut (e : Error) (s : State) : (recordError e s).codecOut = s.codecOut := by
  unfold recordError; split <;> simp_all
@[simp] theorem recordError_trace (e : Error) (s : State) : (recordError e s).trace = s.trace := by
  unfold recordError; split <;> simp_all
@[simp] theorem recordError_opStart (e : Error) (s : State) : (recordError e s).opStart = s.opStart := by
  unfold recordError; split <;> simp_all
@[simp] theorem recordError_abandonedAt (e : Error) (s : State) : (recordError e s).abandonedAt = s.abandonedAt := by
  unfold recordError; split <;> simp_all

/-! `recordAwait` writes `FAIL` and `ERR`. -/

@[simp] theorem recordAwait_sessionValid (a : AwaitRes) (s : State) : (recordAwait a s).sessionValid = s.sessionValid := by
  cases a <;> simp [recordAwait]
@[simp] theorem recordAwait_cfg (a : AwaitRes) (s : State) : (recordAwait a s).cfg = s.cfg := by
  cases a <;> simp [recordAwait]
@[simp] theorem recordAwait_fsm (a : AwaitRes) (s : State) : (recordAwait a s).fsm = s.fsm := by
  cases a <;> simp [recordAwait]
@[simp] theorem recordAwait_mode (a : AwaitRes) (s : State) : (recordAwait a s).mode = s.mode := by
  cases a <;> simp [recordAwait]
@[simp] theorem recordAwait_rdback (a : AwaitRes) (s : State) : (recordAwait a s).rdback = s.rdback := by
  cases a <;> simp [recordAwait]
@[simp] theorem recordAwait_n (a : AwaitRes) (s : State) : (recordAwait a s).n = s.n := by
  cases a <;> simp [recordAwait]
@[simp] theorem recordAwait_subIdx (a : AwaitRes) (s : State) : (recordAwait a s).subIdx = s.subIdx := by
  cases a <;> simp [recordAwait]
@[simp] theorem recordAwait_frame (a : AwaitRes) (s : State) : (recordAwait a s).frame = s.frame := by
  cases a <;> simp [recordAwait]
@[simp] theorem recordAwait_ids (a : AwaitRes) (s : State) : (recordAwait a s).ids = s.ids := by
  cases a <;> simp [recordAwait]
@[simp] theorem recordAwait_rx (a : AwaitRes) (s : State) : (recordAwait a s).rx = s.rx := by
  cases a <;> simp [recordAwait]
@[simp] theorem recordAwait_latchReq (a : AwaitRes) (s : State) : (recordAwait a s).latchReq = s.latchReq := by
  cases a <;> simp [recordAwait]
@[simp] theorem recordAwait_lineSync (a : AwaitRes) (s : State) : (recordAwait a s).lineSync = s.lineSync := by
  cases a <;> simp [recordAwait]
@[simp] theorem recordAwait_lineLatch (a : AwaitRes) (s : State) : (recordAwait a s).lineLatch = s.lineLatch := by
  cases a <;> simp [recordAwait]
@[simp] theorem recordAwait_lineReset (a : AwaitRes) (s : State) : (recordAwait a s).lineReset = s.lineReset := by
  cases a <;> simp [recordAwait]
@[simp] theorem recordAwait_result (a : AwaitRes) (s : State) : (recordAwait a s).result = s.result := by
  cases a <;> simp [recordAwait]
@[simp] theorem recordAwait_pc (a : AwaitRes) (s : State) : (recordAwait a s).pc = s.pc := by
  cases a <;> simp [recordAwait]
@[simp] theorem recordAwait_res (a : AwaitRes) (s : State) : (recordAwait a s).res = s.res := by
  cases a <;> simp [recordAwait]
@[simp] theorem recordAwait_opening (a : AwaitRes) (s : State) : (recordAwait a s).opening = s.opening := by
  cases a <;> simp [recordAwait]
@[simp] theorem recordAwait_par (a : AwaitRes) (s : State) : (recordAwait a s).par = s.par := by
  cases a <;> simp [recordAwait]
@[simp] theorem recordAwait_transport (a : AwaitRes) (s : State) : (recordAwait a s).transport = s.transport := by
  cases a <;> simp [recordAwait]
@[simp] theorem recordAwait_inbox (a : AwaitRes) (s : State) : (recordAwait a s).inbox = s.inbox := by
  cases a <;> simp [recordAwait]
@[simp] theorem recordAwait_lineAnswers (a : AwaitRes) (s : State) : (recordAwait a s).lineAnswers = s.lineAnswers := by
  cases a <;> simp [recordAwait]
@[simp] theorem recordAwait_draws (a : AwaitRes) (s : State) : (recordAwait a s).draws = s.draws := by
  cases a <;> simp [recordAwait]
@[simp] theorem recordAwait_codecOut (a : AwaitRes) (s : State) : (recordAwait a s).codecOut = s.codecOut := by
  cases a <;> simp [recordAwait]
@[simp] theorem recordAwait_trace (a : AwaitRes) (s : State) : (recordAwait a s).trace = s.trace := by
  cases a <;> simp [recordAwait]
@[simp] theorem recordAwait_opStart (a : AwaitRes) (s : State) : (recordAwait a s).opStart = s.opStart := by
  cases a <;> simp [recordAwait]
@[simp] theorem recordAwait_abandonedAt (a : AwaitRes) (s : State) : (recordAwait a s).abandonedAt = s.abandonedAt := by
  cases a <;> simp [recordAwait]

/-! `putLine` writes one line register. -/

@[simp] theorem putLine_sessionValid (r : CtlLine) (v : LineState) (s : State) : (putLine r v s).sessionValid = s.sessionValid := by
  cases r <;> rfl
@[simp] theorem putLine_cfg (r : CtlLine) (v : LineState) (s : State) : (putLine r v s).cfg = s.cfg := by
  cases r <;> rfl
@[simp] theorem putLine_fsm (r : CtlLine) (v : LineState) (s : State) : (putLine r v s).fsm = s.fsm := by
  cases r <;> rfl
@[simp] theorem putLine_mode (r : CtlLine) (v : LineState) (s : State) : (putLine r v s).mode = s.mode := by
  cases r <;> rfl
@[simp] theorem putLine_rdback (r : CtlLine) (v : LineState) (s : State) : (putLine r v s).rdback = s.rdback := by
  cases r <;> rfl
@[simp] theorem putLine_n (r : CtlLine) (v : LineState) (s : State) : (putLine r v s).n = s.n := by
  cases r <;> rfl
@[simp] theorem putLine_subIdx (r : CtlLine) (v : LineState) (s : State) : (putLine r v s).subIdx = s.subIdx := by
  cases r <;> rfl
@[simp] theorem putLine_frame (r : CtlLine) (v : LineState) (s : State) : (putLine r v s).frame = s.frame := by
  cases r <;> rfl
@[simp] theorem putLine_ids (r : CtlLine) (v : LineState) (s : State) : (putLine r v s).ids = s.ids := by
  cases r <;> rfl
@[simp] theorem putLine_rx (r : CtlLine) (v : LineState) (s : State) : (putLine r v s).rx = s.rx := by
  cases r <;> rfl
@[simp] theorem putLine_latchReq (r : CtlLine) (v : LineState) (s : State) : (putLine r v s).latchReq = s.latchReq := by
  cases r <;> rfl
@[simp] theorem putLine_failed (r : CtlLine) (v : LineState) (s : State) : (putLine r v s).failed = s.failed := by
  cases r <;> rfl
@[simp] theorem putLine_err (r : CtlLine) (v : LineState) (s : State) : (putLine r v s).err = s.err := by
  cases r <;> rfl
@[simp] theorem putLine_result (r : CtlLine) (v : LineState) (s : State) : (putLine r v s).result = s.result := by
  cases r <;> rfl
@[simp] theorem putLine_pc (r : CtlLine) (v : LineState) (s : State) : (putLine r v s).pc = s.pc := by
  cases r <;> rfl
@[simp] theorem putLine_res (r : CtlLine) (v : LineState) (s : State) : (putLine r v s).res = s.res := by
  cases r <;> rfl
@[simp] theorem putLine_opening (r : CtlLine) (v : LineState) (s : State) : (putLine r v s).opening = s.opening := by
  cases r <;> rfl
@[simp] theorem putLine_par (r : CtlLine) (v : LineState) (s : State) : (putLine r v s).par = s.par := by
  cases r <;> rfl
@[simp] theorem putLine_transport (r : CtlLine) (v : LineState) (s : State) : (putLine r v s).transport = s.transport := by
  cases r <;> rfl
@[simp] theorem putLine_inbox (r : CtlLine) (v : LineState) (s : State) : (putLine r v s).inbox = s.inbox := by
  cases r <;> rfl
@[simp] theorem putLine_lineAnswers (r : CtlLine) (v : LineState) (s : State) : (putLine r v s).lineAnswers = s.lineAnswers := by
  cases r <;> rfl
@[simp] theorem putLine_draws (r : CtlLine) (v : LineState) (s : State) : (putLine r v s).draws = s.draws := by
  cases r <;> rfl
@[simp] theorem putLine_codecOut (r : CtlLine) (v : LineState) (s : State) : (putLine r v s).codecOut = s.codecOut := by
  cases r <;> rfl
@[simp] theorem putLine_trace (r : CtlLine) (v : LineState) (s : State) : (putLine r v s).trace = s.trace := by
  cases r <;> rfl
@[simp] theorem putLine_opStart (r : CtlLine) (v : LineState) (s : State) : (putLine r v s).opStart = s.opStart := by
  cases r <;> rfl
@[simp] theorem putLine_abandonedAt (r : CtlLine) (v : LineState) (s : State) : (putLine r v s).abandonedAt = s.abandonedAt := by
  cases r <;> rfl

/-! `takeLineAnswer` takes one answer. -/

@[simp] theorem takeLineAnswer_sessionValid (s : State) : ((takeLineAnswer s).2).sessionValid = s.sessionValid := by
  unfold takeLineAnswer; split <;> rfl
@[simp] theorem takeLineAnswer_cfg (s : State) : ((takeLineAnswer s).2).cfg = s.cfg := by
  unfold takeLineAnswer; split <;> rfl
@[simp] theorem takeLineAnswer_fsm (s : State) : ((takeLineAnswer s).2).fsm = s.fsm := by
  unfold takeLineAnswer; split <;> rfl
@[simp] theorem takeLineAnswer_mode (s : State) : ((takeLineAnswer s).2).mode = s.mode := by
  unfold takeLineAnswer; split <;> rfl
@[simp] theorem takeLineAnswer_rdback (s : State) : ((takeLineAnswer s).2).rdback = s.rdback := by
  unfold takeLineAnswer; split <;> rfl
@[simp] theorem takeLineAnswer_n (s : State) : ((takeLineAnswer s).2).n = s.n := by
  unfold takeLineAnswer; split <;> rfl
@[simp] theorem takeLineAnswer_subIdx (s : State) : ((takeLineAnswer s).2).subIdx = s.subIdx := by
  unfold takeLineAnswer; split <;> rfl
@[simp] theorem takeLineAnswer_frame (s : State) : ((takeLineAnswer s).2).frame = s.frame := by
  unfold takeLineAnswer; split <;> rfl
@[simp] theorem takeLineAnswer_ids (s : State) : ((takeLineAnswer s).2).ids = s.ids := by
  unfold takeLineAnswer; split <;> rfl
@[simp] theorem takeLineAnswer_rx (s : State) : ((takeLineAnswer s).2).rx = s.rx := by
  unfold takeLineAnswer; split <;> rfl
@[simp] theorem takeLineAnswer_latchReq (s : State) : ((takeLineAnswer s).2).latchReq = s.latchReq := by
  unfold takeLineAnswer; split <;> rfl
@[simp] theorem takeLineAnswer_failed (s : State) : ((takeLineAnswer s).2).failed = s.failed := by
  unfold takeLineAnswer; split <;> rfl
@[simp] theorem takeLineAnswer_err (s : State) : ((takeLineAnswer s).2).err = s.err := by
  unfold takeLineAnswer; split <;> rfl
@[simp] theorem takeLineAnswer_lineSync (s : State) : ((takeLineAnswer s).2).lineSync = s.lineSync := by
  unfold takeLineAnswer; split <;> rfl
@[simp] theorem takeLineAnswer_lineLatch (s : State) : ((takeLineAnswer s).2).lineLatch = s.lineLatch := by
  unfold takeLineAnswer; split <;> rfl
@[simp] theorem takeLineAnswer_lineReset (s : State) : ((takeLineAnswer s).2).lineReset = s.lineReset := by
  unfold takeLineAnswer; split <;> rfl
@[simp] theorem takeLineAnswer_result (s : State) : ((takeLineAnswer s).2).result = s.result := by
  unfold takeLineAnswer; split <;> rfl
@[simp] theorem takeLineAnswer_pc (s : State) : ((takeLineAnswer s).2).pc = s.pc := by
  unfold takeLineAnswer; split <;> rfl
@[simp] theorem takeLineAnswer_res (s : State) : ((takeLineAnswer s).2).res = s.res := by
  unfold takeLineAnswer; split <;> rfl
@[simp] theorem takeLineAnswer_opening (s : State) : ((takeLineAnswer s).2).opening = s.opening := by
  unfold takeLineAnswer; split <;> rfl
@[simp] theorem takeLineAnswer_par (s : State) : ((takeLineAnswer s).2).par = s.par := by
  unfold takeLineAnswer; split <;> rfl
@[simp] theorem takeLineAnswer_transport (s : State) : ((takeLineAnswer s).2).transport = s.transport := by
  unfold takeLineAnswer; split <;> rfl
@[simp] theorem takeLineAnswer_inbox (s : State) : ((takeLineAnswer s).2).inbox = s.inbox := by
  unfold takeLineAnswer; split <;> rfl
@[simp] theorem takeLineAnswer_codecOut (s : State) : ((takeLineAnswer s).2).codecOut = s.codecOut := by
  unfold takeLineAnswer; split <;> rfl
@[simp] theorem takeLineAnswer_trace (s : State) : ((takeLineAnswer s).2).trace = s.trace := by
  unfold takeLineAnswer; split <;> rfl
@[simp] theorem takeLineAnswer_opStart (s : State) : ((takeLineAnswer s).2).opStart = s.opStart := by
  unfold takeLineAnswer; split <;> rfl
@[simp] theorem takeLineAnswer_abandonedAt (s : State) : ((takeLineAnswer s).2).abandonedAt = s.abandonedAt := by
  unfold takeLineAnswer; split <;> rfl

/-! `setLine` writes one line register, takes an answer and joins the trace. -/

@[simp] theorem setLine_sessionValid (p : Pins) (r : CtlLine) (v : Level) (s : State) : ((setLine p r v s).2).sessionValid = s.sessionValid := by
  unfold setLine; split <;> simp
@[simp] theorem setLine_cfg (p : Pins) (r : CtlLine) (v : Level) (s : State) : ((setLine p r v s).2).cfg = s.cfg := by
  unfold setLine; split <;> simp
@[simp] theorem setLine_fsm (p : Pins) (r : CtlLine) (v : Level) (s : State) : ((setLine p r v s).2).fsm = s.fsm := by
  unfold setLine; split <;> simp
@[simp] theorem setLine_mode (p : Pins) (r : CtlLine) (v : Level) (s : State) : ((setLine p r v s).2).mode = s.mode := by
  unfold setLine; split <;> simp
@[simp] theorem setLine_rdback (p : Pins) (r : CtlLine) (v : Level) (s : State) : ((setLine p r v s).2).rdback = s.rdback := by
  unfold setLine; split <;> simp
@[simp] theorem setLine_n (p : Pins) (r : CtlLine) (v : Level) (s : State) : ((setLine p r v s).2).n = s.n := by
  unfold setLine; split <;> simp
@[simp] theorem setLine_subIdx (p : Pins) (r : CtlLine) (v : Level) (s : State) : ((setLine p r v s).2).subIdx = s.subIdx := by
  unfold setLine; split <;> simp
@[simp] theorem setLine_frame (p : Pins) (r : CtlLine) (v : Level) (s : State) : ((setLine p r v s).2).frame = s.frame := by
  unfold setLine; split <;> simp
@[simp] theorem setLine_ids (p : Pins) (r : CtlLine) (v : Level) (s : State) : ((setLine p r v s).2).ids = s.ids := by
  unfold setLine; split <;> simp
@[simp] theorem setLine_rx (p : Pins) (r : CtlLine) (v : Level) (s : State) : ((setLine p r v s).2).rx = s.rx := by
  unfold setLine; split <;> simp
@[simp] theorem setLine_latchReq (p : Pins) (r : CtlLine) (v : Level) (s : State) : ((setLine p r v s).2).latchReq = s.latchReq := by
  unfold setLine; split <;> simp
@[simp] theorem setLine_failed (p : Pins) (r : CtlLine) (v : Level) (s : State) : ((setLine p r v s).2).failed = s.failed := by
  unfold setLine; split <;> simp
@[simp] theorem setLine_err (p : Pins) (r : CtlLine) (v : Level) (s : State) : ((setLine p r v s).2).err = s.err := by
  unfold setLine; split <;> simp
@[simp] theorem setLine_result (p : Pins) (r : CtlLine) (v : Level) (s : State) : ((setLine p r v s).2).result = s.result := by
  unfold setLine; split <;> simp
@[simp] theorem setLine_pc (p : Pins) (r : CtlLine) (v : Level) (s : State) : ((setLine p r v s).2).pc = s.pc := by
  unfold setLine; split <;> simp
@[simp] theorem setLine_res (p : Pins) (r : CtlLine) (v : Level) (s : State) : ((setLine p r v s).2).res = s.res := by
  unfold setLine; split <;> simp
@[simp] theorem setLine_opening (p : Pins) (r : CtlLine) (v : Level) (s : State) : ((setLine p r v s).2).opening = s.opening := by
  unfold setLine; split <;> simp
@[simp] theorem setLine_par (p : Pins) (r : CtlLine) (v : Level) (s : State) : ((setLine p r v s).2).par = s.par := by
  unfold setLine; split <;> simp
@[simp] theorem setLine_transport (p : Pins) (r : CtlLine) (v : Level) (s : State) : ((setLine p r v s).2).transport = s.transport := by
  unfold setLine; split <;> simp
@[simp] theorem setLine_inbox (p : Pins) (r : CtlLine) (v : Level) (s : State) : ((setLine p r v s).2).inbox = s.inbox := by
  unfold setLine; split <;> simp
@[simp] theorem setLine_codecOut (p : Pins) (r : CtlLine) (v : Level) (s : State) : ((setLine p r v s).2).codecOut = s.codecOut := by
  unfold setLine; split <;> simp
@[simp] theorem setLine_opStart (p : Pins) (r : CtlLine) (v : Level) (s : State) : ((setLine p r v s).2).opStart = s.opStart := by
  unfold setLine; split <;> simp
@[simp] theorem setLine_abandonedAt (p : Pins) (r : CtlLine) (v : Level) (s : State) : ((setLine p r v s).2).abandonedAt = s.abandonedAt := by
  unfold setLine; split <;> simp

/-! `pulseLine` writes one line register, takes an answer and joins the trace. -/

@[simp] theorem pulseLine_sessionValid (p : Pins) (r : CtlLine) (d : Nat) (s : State) : ((pulseLine p r d s).2).sessionValid = s.sessionValid := by
  unfold pulseLine; split <;> simp
@[simp] theorem pulseLine_cfg (p : Pins) (r : CtlLine) (d : Nat) (s : State) : ((pulseLine p r d s).2).cfg = s.cfg := by
  unfold pulseLine; split <;> simp
@[simp] theorem pulseLine_fsm (p : Pins) (r : CtlLine) (d : Nat) (s : State) : ((pulseLine p r d s).2).fsm = s.fsm := by
  unfold pulseLine; split <;> simp
@[simp] theorem pulseLine_mode (p : Pins) (r : CtlLine) (d : Nat) (s : State) : ((pulseLine p r d s).2).mode = s.mode := by
  unfold pulseLine; split <;> simp
@[simp] theorem pulseLine_rdback (p : Pins) (r : CtlLine) (d : Nat) (s : State) : ((pulseLine p r d s).2).rdback = s.rdback := by
  unfold pulseLine; split <;> simp
@[simp] theorem pulseLine_n (p : Pins) (r : CtlLine) (d : Nat) (s : State) : ((pulseLine p r d s).2).n = s.n := by
  unfold pulseLine; split <;> simp
@[simp] theorem pulseLine_subIdx (p : Pins) (r : CtlLine) (d : Nat) (s : State) : ((pulseLine p r d s).2).subIdx = s.subIdx := by
  unfold pulseLine; split <;> simp
@[simp] theorem pulseLine_frame (p : Pins) (r : CtlLine) (d : Nat) (s : State) : ((pulseLine p r d s).2).frame = s.frame := by
  unfold pulseLine; split <;> simp
@[simp] theorem pulseLine_ids (p : Pins) (r : CtlLine) (d : Nat) (s : State) : ((pulseLine p r d s).2).ids = s.ids := by
  unfold pulseLine; split <;> simp
@[simp] theorem pulseLine_rx (p : Pins) (r : CtlLine) (d : Nat) (s : State) : ((pulseLine p r d s).2).rx = s.rx := by
  unfold pulseLine; split <;> simp
@[simp] theorem pulseLine_latchReq (p : Pins) (r : CtlLine) (d : Nat) (s : State) : ((pulseLine p r d s).2).latchReq = s.latchReq := by
  unfold pulseLine; split <;> simp
@[simp] theorem pulseLine_failed (p : Pins) (r : CtlLine) (d : Nat) (s : State) : ((pulseLine p r d s).2).failed = s.failed := by
  unfold pulseLine; split <;> simp
@[simp] theorem pulseLine_err (p : Pins) (r : CtlLine) (d : Nat) (s : State) : ((pulseLine p r d s).2).err = s.err := by
  unfold pulseLine; split <;> simp
@[simp] theorem pulseLine_result (p : Pins) (r : CtlLine) (d : Nat) (s : State) : ((pulseLine p r d s).2).result = s.result := by
  unfold pulseLine; split <;> simp
@[simp] theorem pulseLine_pc (p : Pins) (r : CtlLine) (d : Nat) (s : State) : ((pulseLine p r d s).2).pc = s.pc := by
  unfold pulseLine; split <;> simp
@[simp] theorem pulseLine_res (p : Pins) (r : CtlLine) (d : Nat) (s : State) : ((pulseLine p r d s).2).res = s.res := by
  unfold pulseLine; split <;> simp
@[simp] theorem pulseLine_opening (p : Pins) (r : CtlLine) (d : Nat) (s : State) : ((pulseLine p r d s).2).opening = s.opening := by
  unfold pulseLine; split <;> simp
@[simp] theorem pulseLine_par (p : Pins) (r : CtlLine) (d : Nat) (s : State) : ((pulseLine p r d s).2).par = s.par := by
  unfold pulseLine; split <;> simp
@[simp] theorem pulseLine_transport (p : Pins) (r : CtlLine) (d : Nat) (s : State) : ((pulseLine p r d s).2).transport = s.transport := by
  unfold pulseLine; split <;> simp
@[simp] theorem pulseLine_inbox (p : Pins) (r : CtlLine) (d : Nat) (s : State) : ((pulseLine p r d s).2).inbox = s.inbox := by
  unfold pulseLine; split <;> simp
@[simp] theorem pulseLine_codecOut (p : Pins) (r : CtlLine) (d : Nat) (s : State) : ((pulseLine p r d s).2).codecOut = s.codecOut := by
  unfold pulseLine; split <;> simp
@[simp] theorem pulseLine_opStart (p : Pins) (r : CtlLine) (d : Nat) (s : State) : ((pulseLine p r d s).2).opStart = s.opStart := by
  unfold pulseLine; split <;> simp
@[simp] theorem pulseLine_abandonedAt (p : Pins) (r : CtlLine) (d : Nat) (s : State) : ((pulseLine p r d s).2).abandonedAt = s.abandonedAt := by
  unfold pulseLine; split <;> simp

/-! The sequencer's primitives write what their line calls write. -/

@[simp] theorem syncAssert_sessionValid (s : State) : ((syncAssert s).2).sessionValid = s.sessionValid := by
  simp [syncAssert]
@[simp] theorem syncAssert_cfg (s : State) : ((syncAssert s).2).cfg = s.cfg := by
  simp [syncAssert]
@[simp] theorem syncAssert_fsm (s : State) : ((syncAssert s).2).fsm = s.fsm := by
  simp [syncAssert]
@[simp] theorem syncAssert_mode (s : State) : ((syncAssert s).2).mode = s.mode := by
  simp [syncAssert]
@[simp] theorem syncAssert_rdback (s : State) : ((syncAssert s).2).rdback = s.rdback := by
  simp [syncAssert]
@[simp] theorem syncAssert_n (s : State) : ((syncAssert s).2).n = s.n := by
  simp [syncAssert]
@[simp] theorem syncAssert_subIdx (s : State) : ((syncAssert s).2).subIdx = s.subIdx := by
  simp [syncAssert]
@[simp] theorem syncAssert_frame (s : State) : ((syncAssert s).2).frame = s.frame := by
  simp [syncAssert]
@[simp] theorem syncAssert_ids (s : State) : ((syncAssert s).2).ids = s.ids := by
  simp [syncAssert]
@[simp] theorem syncAssert_rx (s : State) : ((syncAssert s).2).rx = s.rx := by
  simp [syncAssert]
@[simp] theorem syncAssert_latchReq (s : State) : ((syncAssert s).2).latchReq = s.latchReq := by
  simp [syncAssert]
@[simp] theorem syncAssert_failed (s : State) : ((syncAssert s).2).failed = s.failed := by
  simp [syncAssert]
@[simp] theorem syncAssert_err (s : State) : ((syncAssert s).2).err = s.err := by
  simp [syncAssert]
@[simp] theorem syncAssert_result (s : State) : ((syncAssert s).2).result = s.result := by
  simp [syncAssert]
@[simp] theorem syncAssert_pc (s : State) : ((syncAssert s).2).pc = s.pc := by
  simp [syncAssert]
@[simp] theorem syncAssert_res (s : State) : ((syncAssert s).2).res = s.res := by
  simp [syncAssert]
@[simp] theorem syncAssert_opening (s : State) : ((syncAssert s).2).opening = s.opening := by
  simp [syncAssert]
@[simp] theorem syncAssert_par (s : State) : ((syncAssert s).2).par = s.par := by
  simp [syncAssert]
@[simp] theorem syncAssert_transport (s : State) : ((syncAssert s).2).transport = s.transport := by
  simp [syncAssert]
@[simp] theorem syncAssert_inbox (s : State) : ((syncAssert s).2).inbox = s.inbox := by
  simp [syncAssert]
@[simp] theorem syncAssert_codecOut (s : State) : ((syncAssert s).2).codecOut = s.codecOut := by
  simp [syncAssert]
@[simp] theorem syncAssert_opStart (s : State) : ((syncAssert s).2).opStart = s.opStart := by
  simp [syncAssert]
@[simp] theorem syncAssert_abandonedAt (s : State) : ((syncAssert s).2).abandonedAt = s.abandonedAt := by
  simp [syncAssert]

/-! As `syncAssert`. -/

@[simp] theorem syncDeassert_sessionValid (s : State) : ((syncDeassert s).2).sessionValid = s.sessionValid := by
  simp [syncDeassert]
@[simp] theorem syncDeassert_cfg (s : State) : ((syncDeassert s).2).cfg = s.cfg := by
  simp [syncDeassert]
@[simp] theorem syncDeassert_fsm (s : State) : ((syncDeassert s).2).fsm = s.fsm := by
  simp [syncDeassert]
@[simp] theorem syncDeassert_mode (s : State) : ((syncDeassert s).2).mode = s.mode := by
  simp [syncDeassert]
@[simp] theorem syncDeassert_rdback (s : State) : ((syncDeassert s).2).rdback = s.rdback := by
  simp [syncDeassert]
@[simp] theorem syncDeassert_n (s : State) : ((syncDeassert s).2).n = s.n := by
  simp [syncDeassert]
@[simp] theorem syncDeassert_subIdx (s : State) : ((syncDeassert s).2).subIdx = s.subIdx := by
  simp [syncDeassert]
@[simp] theorem syncDeassert_frame (s : State) : ((syncDeassert s).2).frame = s.frame := by
  simp [syncDeassert]
@[simp] theorem syncDeassert_ids (s : State) : ((syncDeassert s).2).ids = s.ids := by
  simp [syncDeassert]
@[simp] theorem syncDeassert_rx (s : State) : ((syncDeassert s).2).rx = s.rx := by
  simp [syncDeassert]
@[simp] theorem syncDeassert_latchReq (s : State) : ((syncDeassert s).2).latchReq = s.latchReq := by
  simp [syncDeassert]
@[simp] theorem syncDeassert_failed (s : State) : ((syncDeassert s).2).failed = s.failed := by
  simp [syncDeassert]
@[simp] theorem syncDeassert_err (s : State) : ((syncDeassert s).2).err = s.err := by
  simp [syncDeassert]
@[simp] theorem syncDeassert_result (s : State) : ((syncDeassert s).2).result = s.result := by
  simp [syncDeassert]
@[simp] theorem syncDeassert_pc (s : State) : ((syncDeassert s).2).pc = s.pc := by
  simp [syncDeassert]
@[simp] theorem syncDeassert_res (s : State) : ((syncDeassert s).2).res = s.res := by
  simp [syncDeassert]
@[simp] theorem syncDeassert_opening (s : State) : ((syncDeassert s).2).opening = s.opening := by
  simp [syncDeassert]
@[simp] theorem syncDeassert_par (s : State) : ((syncDeassert s).2).par = s.par := by
  simp [syncDeassert]
@[simp] theorem syncDeassert_transport (s : State) : ((syncDeassert s).2).transport = s.transport := by
  simp [syncDeassert]
@[simp] theorem syncDeassert_inbox (s : State) : ((syncDeassert s).2).inbox = s.inbox := by
  simp [syncDeassert]
@[simp] theorem syncDeassert_codecOut (s : State) : ((syncDeassert s).2).codecOut = s.codecOut := by
  simp [syncDeassert]
@[simp] theorem syncDeassert_opStart (s : State) : ((syncDeassert s).2).opStart = s.opStart := by
  simp [syncDeassert]
@[simp] theorem syncDeassert_abandonedAt (s : State) : ((syncDeassert s).2).abandonedAt = s.abandonedAt := by
  simp [syncDeassert]

/-! As `syncAssert`. -/

@[simp] theorem latchPulse_sessionValid (T : FamilyTable) (s : State) : ((latchPulse T s).2).sessionValid = s.sessionValid := by
  simp [latchPulse]
@[simp] theorem latchPulse_cfg (T : FamilyTable) (s : State) : ((latchPulse T s).2).cfg = s.cfg := by
  simp [latchPulse]
@[simp] theorem latchPulse_fsm (T : FamilyTable) (s : State) : ((latchPulse T s).2).fsm = s.fsm := by
  simp [latchPulse]
@[simp] theorem latchPulse_mode (T : FamilyTable) (s : State) : ((latchPulse T s).2).mode = s.mode := by
  simp [latchPulse]
@[simp] theorem latchPulse_rdback (T : FamilyTable) (s : State) : ((latchPulse T s).2).rdback = s.rdback := by
  simp [latchPulse]
@[simp] theorem latchPulse_n (T : FamilyTable) (s : State) : ((latchPulse T s).2).n = s.n := by
  simp [latchPulse]
@[simp] theorem latchPulse_subIdx (T : FamilyTable) (s : State) : ((latchPulse T s).2).subIdx = s.subIdx := by
  simp [latchPulse]
@[simp] theorem latchPulse_frame (T : FamilyTable) (s : State) : ((latchPulse T s).2).frame = s.frame := by
  simp [latchPulse]
@[simp] theorem latchPulse_ids (T : FamilyTable) (s : State) : ((latchPulse T s).2).ids = s.ids := by
  simp [latchPulse]
@[simp] theorem latchPulse_rx (T : FamilyTable) (s : State) : ((latchPulse T s).2).rx = s.rx := by
  simp [latchPulse]
@[simp] theorem latchPulse_latchReq (T : FamilyTable) (s : State) : ((latchPulse T s).2).latchReq = s.latchReq := by
  simp [latchPulse]
@[simp] theorem latchPulse_failed (T : FamilyTable) (s : State) : ((latchPulse T s).2).failed = s.failed := by
  simp [latchPulse]
@[simp] theorem latchPulse_err (T : FamilyTable) (s : State) : ((latchPulse T s).2).err = s.err := by
  simp [latchPulse]
@[simp] theorem latchPulse_result (T : FamilyTable) (s : State) : ((latchPulse T s).2).result = s.result := by
  simp [latchPulse]
@[simp] theorem latchPulse_pc (T : FamilyTable) (s : State) : ((latchPulse T s).2).pc = s.pc := by
  simp [latchPulse]
@[simp] theorem latchPulse_res (T : FamilyTable) (s : State) : ((latchPulse T s).2).res = s.res := by
  simp [latchPulse]
@[simp] theorem latchPulse_opening (T : FamilyTable) (s : State) : ((latchPulse T s).2).opening = s.opening := by
  simp [latchPulse]
@[simp] theorem latchPulse_par (T : FamilyTable) (s : State) : ((latchPulse T s).2).par = s.par := by
  simp [latchPulse]
@[simp] theorem latchPulse_transport (T : FamilyTable) (s : State) : ((latchPulse T s).2).transport = s.transport := by
  simp [latchPulse]
@[simp] theorem latchPulse_inbox (T : FamilyTable) (s : State) : ((latchPulse T s).2).inbox = s.inbox := by
  simp [latchPulse]
@[simp] theorem latchPulse_codecOut (T : FamilyTable) (s : State) : ((latchPulse T s).2).codecOut = s.codecOut := by
  simp [latchPulse]
@[simp] theorem latchPulse_opStart (T : FamilyTable) (s : State) : ((latchPulse T s).2).opStart = s.opStart := by
  simp [latchPulse]
@[simp] theorem latchPulse_abandonedAt (T : FamilyTable) (s : State) : ((latchPulse T s).2).abandonedAt = s.abandonedAt := by
  simp [latchPulse]

/-! As `syncAssert`. -/

@[simp] theorem resetPulse_sessionValid (T : FamilyTable) (p : Pins) (s : State) : ((resetPulse T p s).2).sessionValid = s.sessionValid := by
  simp [resetPulse]
@[simp] theorem resetPulse_cfg (T : FamilyTable) (p : Pins) (s : State) : ((resetPulse T p s).2).cfg = s.cfg := by
  simp [resetPulse]
@[simp] theorem resetPulse_fsm (T : FamilyTable) (p : Pins) (s : State) : ((resetPulse T p s).2).fsm = s.fsm := by
  simp [resetPulse]
@[simp] theorem resetPulse_mode (T : FamilyTable) (p : Pins) (s : State) : ((resetPulse T p s).2).mode = s.mode := by
  simp [resetPulse]
@[simp] theorem resetPulse_rdback (T : FamilyTable) (p : Pins) (s : State) : ((resetPulse T p s).2).rdback = s.rdback := by
  simp [resetPulse]
@[simp] theorem resetPulse_n (T : FamilyTable) (p : Pins) (s : State) : ((resetPulse T p s).2).n = s.n := by
  simp [resetPulse]
@[simp] theorem resetPulse_subIdx (T : FamilyTable) (p : Pins) (s : State) : ((resetPulse T p s).2).subIdx = s.subIdx := by
  simp [resetPulse]
@[simp] theorem resetPulse_frame (T : FamilyTable) (p : Pins) (s : State) : ((resetPulse T p s).2).frame = s.frame := by
  simp [resetPulse]
@[simp] theorem resetPulse_ids (T : FamilyTable) (p : Pins) (s : State) : ((resetPulse T p s).2).ids = s.ids := by
  simp [resetPulse]
@[simp] theorem resetPulse_rx (T : FamilyTable) (p : Pins) (s : State) : ((resetPulse T p s).2).rx = s.rx := by
  simp [resetPulse]
@[simp] theorem resetPulse_latchReq (T : FamilyTable) (p : Pins) (s : State) : ((resetPulse T p s).2).latchReq = s.latchReq := by
  simp [resetPulse]
@[simp] theorem resetPulse_failed (T : FamilyTable) (p : Pins) (s : State) : ((resetPulse T p s).2).failed = s.failed := by
  simp [resetPulse]
@[simp] theorem resetPulse_err (T : FamilyTable) (p : Pins) (s : State) : ((resetPulse T p s).2).err = s.err := by
  simp [resetPulse]
@[simp] theorem resetPulse_result (T : FamilyTable) (p : Pins) (s : State) : ((resetPulse T p s).2).result = s.result := by
  simp [resetPulse]
@[simp] theorem resetPulse_pc (T : FamilyTable) (p : Pins) (s : State) : ((resetPulse T p s).2).pc = s.pc := by
  simp [resetPulse]
@[simp] theorem resetPulse_res (T : FamilyTable) (p : Pins) (s : State) : ((resetPulse T p s).2).res = s.res := by
  simp [resetPulse]
@[simp] theorem resetPulse_opening (T : FamilyTable) (p : Pins) (s : State) : ((resetPulse T p s).2).opening = s.opening := by
  simp [resetPulse]
@[simp] theorem resetPulse_par (T : FamilyTable) (p : Pins) (s : State) : ((resetPulse T p s).2).par = s.par := by
  simp [resetPulse]
@[simp] theorem resetPulse_transport (T : FamilyTable) (p : Pins) (s : State) : ((resetPulse T p s).2).transport = s.transport := by
  simp [resetPulse]
@[simp] theorem resetPulse_inbox (T : FamilyTable) (p : Pins) (s : State) : ((resetPulse T p s).2).inbox = s.inbox := by
  simp [resetPulse]
@[simp] theorem resetPulse_codecOut (T : FamilyTable) (p : Pins) (s : State) : ((resetPulse T p s).2).codecOut = s.codecOut := by
  simp [resetPulse]
@[simp] theorem resetPulse_opStart (T : FamilyTable) (p : Pins) (s : State) : ((resetPulse T p s).2).opStart = s.opStart := by
  simp [resetPulse]
@[simp] theorem resetPulse_abandonedAt (T : FamilyTable) (p : Pins) (s : State) : ((resetPulse T p s).2).abandonedAt = s.abandonedAt := by
  simp [resetPulse]

/-! As `syncAssert`. -/

@[simp] theorem linesIdleSync_sessionValid (s : State) : (linesIdleSync s).sessionValid = s.sessionValid := by
  simp [linesIdleSync]
@[simp] theorem linesIdleSync_cfg (s : State) : (linesIdleSync s).cfg = s.cfg := by
  simp [linesIdleSync]
@[simp] theorem linesIdleSync_fsm (s : State) : (linesIdleSync s).fsm = s.fsm := by
  simp [linesIdleSync]
@[simp] theorem linesIdleSync_mode (s : State) : (linesIdleSync s).mode = s.mode := by
  simp [linesIdleSync]
@[simp] theorem linesIdleSync_rdback (s : State) : (linesIdleSync s).rdback = s.rdback := by
  simp [linesIdleSync]
@[simp] theorem linesIdleSync_n (s : State) : (linesIdleSync s).n = s.n := by
  simp [linesIdleSync]
@[simp] theorem linesIdleSync_subIdx (s : State) : (linesIdleSync s).subIdx = s.subIdx := by
  simp [linesIdleSync]
@[simp] theorem linesIdleSync_frame (s : State) : (linesIdleSync s).frame = s.frame := by
  simp [linesIdleSync]
@[simp] theorem linesIdleSync_ids (s : State) : (linesIdleSync s).ids = s.ids := by
  simp [linesIdleSync]
@[simp] theorem linesIdleSync_rx (s : State) : (linesIdleSync s).rx = s.rx := by
  simp [linesIdleSync]
@[simp] theorem linesIdleSync_latchReq (s : State) : (linesIdleSync s).latchReq = s.latchReq := by
  simp [linesIdleSync]
@[simp] theorem linesIdleSync_failed (s : State) : (linesIdleSync s).failed = s.failed := by
  simp [linesIdleSync]
@[simp] theorem linesIdleSync_err (s : State) : (linesIdleSync s).err = s.err := by
  simp [linesIdleSync]
@[simp] theorem linesIdleSync_result (s : State) : (linesIdleSync s).result = s.result := by
  simp [linesIdleSync]
@[simp] theorem linesIdleSync_pc (s : State) : (linesIdleSync s).pc = s.pc := by
  simp [linesIdleSync]
@[simp] theorem linesIdleSync_res (s : State) : (linesIdleSync s).res = s.res := by
  simp [linesIdleSync]
@[simp] theorem linesIdleSync_opening (s : State) : (linesIdleSync s).opening = s.opening := by
  simp [linesIdleSync]
@[simp] theorem linesIdleSync_par (s : State) : (linesIdleSync s).par = s.par := by
  simp [linesIdleSync]
@[simp] theorem linesIdleSync_transport (s : State) : (linesIdleSync s).transport = s.transport := by
  simp [linesIdleSync]
@[simp] theorem linesIdleSync_inbox (s : State) : (linesIdleSync s).inbox = s.inbox := by
  simp [linesIdleSync]
@[simp] theorem linesIdleSync_codecOut (s : State) : (linesIdleSync s).codecOut = s.codecOut := by
  simp [linesIdleSync]
@[simp] theorem linesIdleSync_opStart (s : State) : (linesIdleSync s).opStart = s.opStart := by
  simp [linesIdleSync]
@[simp] theorem linesIdleSync_abandonedAt (s : State) : (linesIdleSync s).abandonedAt = s.abandonedAt := by
  simp [linesIdleSync]

/-! As `syncAssert`. -/

@[simp] theorem linesIdleLatch_sessionValid (s : State) : (linesIdleLatch s).sessionValid = s.sessionValid := by
  simp [linesIdleLatch]
@[simp] theorem linesIdleLatch_cfg (s : State) : (linesIdleLatch s).cfg = s.cfg := by
  simp [linesIdleLatch]
@[simp] theorem linesIdleLatch_fsm (s : State) : (linesIdleLatch s).fsm = s.fsm := by
  simp [linesIdleLatch]
@[simp] theorem linesIdleLatch_mode (s : State) : (linesIdleLatch s).mode = s.mode := by
  simp [linesIdleLatch]
@[simp] theorem linesIdleLatch_rdback (s : State) : (linesIdleLatch s).rdback = s.rdback := by
  simp [linesIdleLatch]
@[simp] theorem linesIdleLatch_n (s : State) : (linesIdleLatch s).n = s.n := by
  simp [linesIdleLatch]
@[simp] theorem linesIdleLatch_subIdx (s : State) : (linesIdleLatch s).subIdx = s.subIdx := by
  simp [linesIdleLatch]
@[simp] theorem linesIdleLatch_frame (s : State) : (linesIdleLatch s).frame = s.frame := by
  simp [linesIdleLatch]
@[simp] theorem linesIdleLatch_ids (s : State) : (linesIdleLatch s).ids = s.ids := by
  simp [linesIdleLatch]
@[simp] theorem linesIdleLatch_rx (s : State) : (linesIdleLatch s).rx = s.rx := by
  simp [linesIdleLatch]
@[simp] theorem linesIdleLatch_latchReq (s : State) : (linesIdleLatch s).latchReq = s.latchReq := by
  simp [linesIdleLatch]
@[simp] theorem linesIdleLatch_failed (s : State) : (linesIdleLatch s).failed = s.failed := by
  simp [linesIdleLatch]
@[simp] theorem linesIdleLatch_err (s : State) : (linesIdleLatch s).err = s.err := by
  simp [linesIdleLatch]
@[simp] theorem linesIdleLatch_result (s : State) : (linesIdleLatch s).result = s.result := by
  simp [linesIdleLatch]
@[simp] theorem linesIdleLatch_pc (s : State) : (linesIdleLatch s).pc = s.pc := by
  simp [linesIdleLatch]
@[simp] theorem linesIdleLatch_res (s : State) : (linesIdleLatch s).res = s.res := by
  simp [linesIdleLatch]
@[simp] theorem linesIdleLatch_opening (s : State) : (linesIdleLatch s).opening = s.opening := by
  simp [linesIdleLatch]
@[simp] theorem linesIdleLatch_par (s : State) : (linesIdleLatch s).par = s.par := by
  simp [linesIdleLatch]
@[simp] theorem linesIdleLatch_transport (s : State) : (linesIdleLatch s).transport = s.transport := by
  simp [linesIdleLatch]
@[simp] theorem linesIdleLatch_inbox (s : State) : (linesIdleLatch s).inbox = s.inbox := by
  simp [linesIdleLatch]
@[simp] theorem linesIdleLatch_codecOut (s : State) : (linesIdleLatch s).codecOut = s.codecOut := by
  simp [linesIdleLatch]
@[simp] theorem linesIdleLatch_opStart (s : State) : (linesIdleLatch s).opStart = s.opStart := by
  simp [linesIdleLatch]
@[simp] theorem linesIdleLatch_abandonedAt (s : State) : (linesIdleLatch s).abandonedAt = s.abandonedAt := by
  simp [linesIdleLatch]

/-! `openPulse` writes what its line call writes. -/

@[simp] theorem openPulse_sessionValid (T : FamilyTable) (p : Pins) (s : State) : ((openPulse T p s).2).sessionValid = s.sessionValid := by
  unfold openPulse; split <;> simp
@[simp] theorem openPulse_cfg (T : FamilyTable) (p : Pins) (s : State) : ((openPulse T p s).2).cfg = s.cfg := by
  unfold openPulse; split <;> simp
@[simp] theorem openPulse_fsm (T : FamilyTable) (p : Pins) (s : State) : ((openPulse T p s).2).fsm = s.fsm := by
  unfold openPulse; split <;> simp
@[simp] theorem openPulse_mode (T : FamilyTable) (p : Pins) (s : State) : ((openPulse T p s).2).mode = s.mode := by
  unfold openPulse; split <;> simp
@[simp] theorem openPulse_rdback (T : FamilyTable) (p : Pins) (s : State) : ((openPulse T p s).2).rdback = s.rdback := by
  unfold openPulse; split <;> simp
@[simp] theorem openPulse_n (T : FamilyTable) (p : Pins) (s : State) : ((openPulse T p s).2).n = s.n := by
  unfold openPulse; split <;> simp
@[simp] theorem openPulse_subIdx (T : FamilyTable) (p : Pins) (s : State) : ((openPulse T p s).2).subIdx = s.subIdx := by
  unfold openPulse; split <;> simp
@[simp] theorem openPulse_frame (T : FamilyTable) (p : Pins) (s : State) : ((openPulse T p s).2).frame = s.frame := by
  unfold openPulse; split <;> simp
@[simp] theorem openPulse_ids (T : FamilyTable) (p : Pins) (s : State) : ((openPulse T p s).2).ids = s.ids := by
  unfold openPulse; split <;> simp
@[simp] theorem openPulse_rx (T : FamilyTable) (p : Pins) (s : State) : ((openPulse T p s).2).rx = s.rx := by
  unfold openPulse; split <;> simp
@[simp] theorem openPulse_latchReq (T : FamilyTable) (p : Pins) (s : State) : ((openPulse T p s).2).latchReq = s.latchReq := by
  unfold openPulse; split <;> simp
@[simp] theorem openPulse_failed (T : FamilyTable) (p : Pins) (s : State) : ((openPulse T p s).2).failed = s.failed := by
  unfold openPulse; split <;> simp
@[simp] theorem openPulse_err (T : FamilyTable) (p : Pins) (s : State) : ((openPulse T p s).2).err = s.err := by
  unfold openPulse; split <;> simp
@[simp] theorem openPulse_result (T : FamilyTable) (p : Pins) (s : State) : ((openPulse T p s).2).result = s.result := by
  unfold openPulse; split <;> simp
@[simp] theorem openPulse_pc (T : FamilyTable) (p : Pins) (s : State) : ((openPulse T p s).2).pc = s.pc := by
  unfold openPulse; split <;> simp
@[simp] theorem openPulse_res (T : FamilyTable) (p : Pins) (s : State) : ((openPulse T p s).2).res = s.res := by
  unfold openPulse; split <;> simp
@[simp] theorem openPulse_opening (T : FamilyTable) (p : Pins) (s : State) : ((openPulse T p s).2).opening = s.opening := by
  unfold openPulse; split <;> simp
@[simp] theorem openPulse_par (T : FamilyTable) (p : Pins) (s : State) : ((openPulse T p s).2).par = s.par := by
  unfold openPulse; split <;> simp
@[simp] theorem openPulse_transport (T : FamilyTable) (p : Pins) (s : State) : ((openPulse T p s).2).transport = s.transport := by
  unfold openPulse; split <;> simp
@[simp] theorem openPulse_inbox (T : FamilyTable) (p : Pins) (s : State) : ((openPulse T p s).2).inbox = s.inbox := by
  unfold openPulse; split <;> simp
@[simp] theorem openPulse_codecOut (T : FamilyTable) (p : Pins) (s : State) : ((openPulse T p s).2).codecOut = s.codecOut := by
  unfold openPulse; split <;> simp
@[simp] theorem openPulse_opStart (T : FamilyTable) (p : Pins) (s : State) : ((openPulse T p s).2).opStart = s.opStart := by
  unfold openPulse; split <;> simp
@[simp] theorem openPulse_abandonedAt (T : FamilyTable) (p : Pins) (s : State) : ((openPulse T p s).2).abandonedAt = s.abandonedAt := by
  unfold openPulse; split <;> simp

/-! `openNext` writes the line OPEN is at. -/

@[simp] theorem openNext_sessionValid (o : Opening) (l : OpenLine) (a : Bool × State) : (openNext o l a).sessionValid = a.2.sessionValid := rfl
@[simp] theorem openNext_cfg (o : Opening) (l : OpenLine) (a : Bool × State) : (openNext o l a).cfg = a.2.cfg := rfl
@[simp] theorem openNext_fsm (o : Opening) (l : OpenLine) (a : Bool × State) : (openNext o l a).fsm = a.2.fsm := rfl
@[simp] theorem openNext_mode (o : Opening) (l : OpenLine) (a : Bool × State) : (openNext o l a).mode = a.2.mode := rfl
@[simp] theorem openNext_rdback (o : Opening) (l : OpenLine) (a : Bool × State) : (openNext o l a).rdback = a.2.rdback := rfl
@[simp] theorem openNext_n (o : Opening) (l : OpenLine) (a : Bool × State) : (openNext o l a).n = a.2.n := rfl
@[simp] theorem openNext_subIdx (o : Opening) (l : OpenLine) (a : Bool × State) : (openNext o l a).subIdx = a.2.subIdx := rfl
@[simp] theorem openNext_frame (o : Opening) (l : OpenLine) (a : Bool × State) : (openNext o l a).frame = a.2.frame := rfl
@[simp] theorem openNext_ids (o : Opening) (l : OpenLine) (a : Bool × State) : (openNext o l a).ids = a.2.ids := rfl
@[simp] theorem openNext_rx (o : Opening) (l : OpenLine) (a : Bool × State) : (openNext o l a).rx = a.2.rx := rfl
@[simp] theorem openNext_latchReq (o : Opening) (l : OpenLine) (a : Bool × State) : (openNext o l a).latchReq = a.2.latchReq := rfl
@[simp] theorem openNext_failed (o : Opening) (l : OpenLine) (a : Bool × State) : (openNext o l a).failed = a.2.failed := rfl
@[simp] theorem openNext_err (o : Opening) (l : OpenLine) (a : Bool × State) : (openNext o l a).err = a.2.err := rfl
@[simp] theorem openNext_lineSync (o : Opening) (l : OpenLine) (a : Bool × State) : (openNext o l a).lineSync = a.2.lineSync := rfl
@[simp] theorem openNext_lineLatch (o : Opening) (l : OpenLine) (a : Bool × State) : (openNext o l a).lineLatch = a.2.lineLatch := rfl
@[simp] theorem openNext_lineReset (o : Opening) (l : OpenLine) (a : Bool × State) : (openNext o l a).lineReset = a.2.lineReset := rfl
@[simp] theorem openNext_pc (o : Opening) (l : OpenLine) (a : Bool × State) : (openNext o l a).pc = a.2.pc := rfl
@[simp] theorem openNext_res (o : Opening) (l : OpenLine) (a : Bool × State) : (openNext o l a).res = a.2.res := rfl
@[simp] theorem openNext_par (o : Opening) (l : OpenLine) (a : Bool × State) : (openNext o l a).par = a.2.par := rfl
@[simp] theorem openNext_transport (o : Opening) (l : OpenLine) (a : Bool × State) : (openNext o l a).transport = a.2.transport := rfl
@[simp] theorem openNext_inbox (o : Opening) (l : OpenLine) (a : Bool × State) : (openNext o l a).inbox = a.2.inbox := rfl
@[simp] theorem openNext_lineAnswers (o : Opening) (l : OpenLine) (a : Bool × State) : (openNext o l a).lineAnswers = a.2.lineAnswers := rfl
@[simp] theorem openNext_draws (o : Opening) (l : OpenLine) (a : Bool × State) : (openNext o l a).draws = a.2.draws := rfl
@[simp] theorem openNext_result (o : Opening) (l : OpenLine) (a : Bool × State) : (openNext o l a).result = a.2.result := rfl
@[simp] theorem openNext_trace (o : Opening) (l : OpenLine) (a : Bool × State) : (openNext o l a).trace = a.2.trace := rfl
@[simp] theorem openNext_opening (o : Opening) (l : OpenLine) (a : Bool × State) :
    (openNext o l a).opening = some { o with line := if a.1 then l else .failed } := rfl
@[simp] theorem openNext_codecOut (o : Opening) (l : OpenLine) (a : Bool × State) : (openNext o l a).codecOut = a.2.codecOut := rfl
@[simp] theorem openNext_opStart (o : Opening) (l : OpenLine) (a : Bool × State) : (openNext o l a).opStart = a.2.opStart := rfl
@[simp] theorem openNext_abandonedAt (o : Opening) (l : OpenLine) (a : Bool × State) : (openNext o l a).abandonedAt = a.2.abandonedAt := rfl

/-! `beginOpen` writes the OPEN in progress, or refuses. -/

@[simp] theorem beginOpen_sessionValid (T : FamilyTable) (h : Nat) (c : OpenCfg) (s : State) : (beginOpen T h c s).sessionValid = s.sessionValid := by
  unfold beginOpen; split <;> simp
@[simp] theorem beginOpen_cfg (T : FamilyTable) (h : Nat) (c : OpenCfg) (s : State) : (beginOpen T h c s).cfg = s.cfg := by
  unfold beginOpen; split <;> simp
@[simp] theorem beginOpen_fsm (T : FamilyTable) (h : Nat) (c : OpenCfg) (s : State) : (beginOpen T h c s).fsm = s.fsm := by
  unfold beginOpen; split <;> simp
@[simp] theorem beginOpen_mode (T : FamilyTable) (h : Nat) (c : OpenCfg) (s : State) : (beginOpen T h c s).mode = s.mode := by
  unfold beginOpen; split <;> simp
@[simp] theorem beginOpen_rdback (T : FamilyTable) (h : Nat) (c : OpenCfg) (s : State) : (beginOpen T h c s).rdback = s.rdback := by
  unfold beginOpen; split <;> simp
@[simp] theorem beginOpen_n (T : FamilyTable) (h : Nat) (c : OpenCfg) (s : State) : (beginOpen T h c s).n = s.n := by
  unfold beginOpen; split <;> simp
@[simp] theorem beginOpen_subIdx (T : FamilyTable) (h : Nat) (c : OpenCfg) (s : State) : (beginOpen T h c s).subIdx = s.subIdx := by
  unfold beginOpen; split <;> simp
@[simp] theorem beginOpen_frame (T : FamilyTable) (h : Nat) (c : OpenCfg) (s : State) : (beginOpen T h c s).frame = s.frame := by
  unfold beginOpen; split <;> simp
@[simp] theorem beginOpen_ids (T : FamilyTable) (h : Nat) (c : OpenCfg) (s : State) : (beginOpen T h c s).ids = s.ids := by
  unfold beginOpen; split <;> simp
@[simp] theorem beginOpen_rx (T : FamilyTable) (h : Nat) (c : OpenCfg) (s : State) : (beginOpen T h c s).rx = s.rx := by
  unfold beginOpen; split <;> simp
@[simp] theorem beginOpen_latchReq (T : FamilyTable) (h : Nat) (c : OpenCfg) (s : State) : (beginOpen T h c s).latchReq = s.latchReq := by
  unfold beginOpen; split <;> simp
@[simp] theorem beginOpen_failed (T : FamilyTable) (h : Nat) (c : OpenCfg) (s : State) : (beginOpen T h c s).failed = s.failed := by
  unfold beginOpen; split <;> simp
@[simp] theorem beginOpen_err (T : FamilyTable) (h : Nat) (c : OpenCfg) (s : State) : (beginOpen T h c s).err = s.err := by
  unfold beginOpen; split <;> simp
@[simp] theorem beginOpen_lineSync (T : FamilyTable) (h : Nat) (c : OpenCfg) (s : State) : (beginOpen T h c s).lineSync = s.lineSync := by
  unfold beginOpen; split <;> simp
@[simp] theorem beginOpen_lineLatch (T : FamilyTable) (h : Nat) (c : OpenCfg) (s : State) : (beginOpen T h c s).lineLatch = s.lineLatch := by
  unfold beginOpen; split <;> simp
@[simp] theorem beginOpen_lineReset (T : FamilyTable) (h : Nat) (c : OpenCfg) (s : State) : (beginOpen T h c s).lineReset = s.lineReset := by
  unfold beginOpen; split <;> simp
@[simp] theorem beginOpen_pc (T : FamilyTable) (h : Nat) (c : OpenCfg) (s : State) : (beginOpen T h c s).pc = s.pc := by
  unfold beginOpen; split <;> simp
@[simp] theorem beginOpen_res (T : FamilyTable) (h : Nat) (c : OpenCfg) (s : State) : (beginOpen T h c s).res = s.res := by
  unfold beginOpen; split <;> simp
@[simp] theorem beginOpen_par (T : FamilyTable) (h : Nat) (c : OpenCfg) (s : State) : (beginOpen T h c s).par = s.par := by
  unfold beginOpen; split <;> simp
@[simp] theorem beginOpen_transport (T : FamilyTable) (h : Nat) (c : OpenCfg) (s : State) : (beginOpen T h c s).transport = s.transport := by
  unfold beginOpen; split <;> simp
@[simp] theorem beginOpen_inbox (T : FamilyTable) (h : Nat) (c : OpenCfg) (s : State) : (beginOpen T h c s).inbox = s.inbox := by
  unfold beginOpen; split <;> simp
@[simp] theorem beginOpen_lineAnswers (T : FamilyTable) (h : Nat) (c : OpenCfg) (s : State) : (beginOpen T h c s).lineAnswers = s.lineAnswers := by
  unfold beginOpen; split <;> simp
@[simp] theorem beginOpen_draws (T : FamilyTable) (h : Nat) (c : OpenCfg) (s : State) : (beginOpen T h c s).draws = s.draws := by
  unfold beginOpen; split <;> simp
@[simp] theorem beginOpen_codecOut (T : FamilyTable) (h : Nat) (c : OpenCfg) (s : State) : (beginOpen T h c s).codecOut = s.codecOut := by
  unfold beginOpen; split <;> simp
@[simp] theorem beginOpen_opStart (T : FamilyTable) (h : Nat) (c : OpenCfg) (s : State) : (beginOpen T h c s).opStart = s.opStart := by
  unfold beginOpen; split <;> simp
@[simp] theorem beginOpen_abandonedAt (T : FamilyTable) (h : Nat) (c : OpenCfg) (s : State) : (beginOpen T h c s).abandonedAt = s.abandonedAt := by
  unfold beginOpen; split <;> simp

/-! `recordLine` records a failed call. -/

@[simp] theorem recordLine_sessionValid (a : Bool × State) : (recordLine a).sessionValid = a.2.sessionValid := by
  unfold recordLine; split <;> simp
@[simp] theorem recordLine_cfg (a : Bool × State) : (recordLine a).cfg = a.2.cfg := by
  unfold recordLine; split <;> simp
@[simp] theorem recordLine_fsm (a : Bool × State) : (recordLine a).fsm = a.2.fsm := by
  unfold recordLine; split <;> simp
@[simp] theorem recordLine_mode (a : Bool × State) : (recordLine a).mode = a.2.mode := by
  unfold recordLine; split <;> simp
@[simp] theorem recordLine_rdback (a : Bool × State) : (recordLine a).rdback = a.2.rdback := by
  unfold recordLine; split <;> simp
@[simp] theorem recordLine_n (a : Bool × State) : (recordLine a).n = a.2.n := by
  unfold recordLine; split <;> simp
@[simp] theorem recordLine_subIdx (a : Bool × State) : (recordLine a).subIdx = a.2.subIdx := by
  unfold recordLine; split <;> simp
@[simp] theorem recordLine_frame (a : Bool × State) : (recordLine a).frame = a.2.frame := by
  unfold recordLine; split <;> simp
@[simp] theorem recordLine_ids (a : Bool × State) : (recordLine a).ids = a.2.ids := by
  unfold recordLine; split <;> simp
@[simp] theorem recordLine_rx (a : Bool × State) : (recordLine a).rx = a.2.rx := by
  unfold recordLine; split <;> simp
@[simp] theorem recordLine_latchReq (a : Bool × State) : (recordLine a).latchReq = a.2.latchReq := by
  unfold recordLine; split <;> simp
@[simp] theorem recordLine_lineSync (a : Bool × State) : (recordLine a).lineSync = a.2.lineSync := by
  unfold recordLine; split <;> simp
@[simp] theorem recordLine_lineLatch (a : Bool × State) : (recordLine a).lineLatch = a.2.lineLatch := by
  unfold recordLine; split <;> simp
@[simp] theorem recordLine_lineReset (a : Bool × State) : (recordLine a).lineReset = a.2.lineReset := by
  unfold recordLine; split <;> simp
@[simp] theorem recordLine_result (a : Bool × State) : (recordLine a).result = a.2.result := by
  unfold recordLine; split <;> simp
@[simp] theorem recordLine_pc (a : Bool × State) : (recordLine a).pc = a.2.pc := by
  unfold recordLine; split <;> simp
@[simp] theorem recordLine_res (a : Bool × State) : (recordLine a).res = a.2.res := by
  unfold recordLine; split <;> simp
@[simp] theorem recordLine_opening (a : Bool × State) : (recordLine a).opening = a.2.opening := by
  unfold recordLine; split <;> simp
@[simp] theorem recordLine_par (a : Bool × State) : (recordLine a).par = a.2.par := by
  unfold recordLine; split <;> simp
@[simp] theorem recordLine_transport (a : Bool × State) : (recordLine a).transport = a.2.transport := by
  unfold recordLine; split <;> simp
@[simp] theorem recordLine_inbox (a : Bool × State) : (recordLine a).inbox = a.2.inbox := by
  unfold recordLine; split <;> simp
@[simp] theorem recordLine_lineAnswers (a : Bool × State) : (recordLine a).lineAnswers = a.2.lineAnswers := by
  unfold recordLine; split <;> simp
@[simp] theorem recordLine_draws (a : Bool × State) : (recordLine a).draws = a.2.draws := by
  unfold recordLine; split <;> simp
@[simp] theorem recordLine_codecOut (a : Bool × State) : (recordLine a).codecOut = a.2.codecOut := by
  unfold recordLine; split <;> simp
@[simp] theorem recordLine_trace (a : Bool × State) : (recordLine a).trace = a.2.trace := by
  unfold recordLine; split <;> simp
@[simp] theorem recordLine_opStart (a : Bool × State) : (recordLine a).opStart = a.2.opStart := by
  unfold recordLine; split <;> simp
@[simp] theorem recordLine_abandonedAt (a : Bool × State) : (recordLine a).abandonedAt = a.2.abandonedAt := by
  unfold recordLine; split <;> simp

/-! `submit` writes the transport and joins the trace. -/

@[simp] theorem submit_sessionValid (h : Nat) (f b : Nat) (s : State) : ((submit h f b s).2).sessionValid = s.sessionValid := by
  unfold submit; split <;> simp
@[simp] theorem submit_cfg (h : Nat) (f b : Nat) (s : State) : ((submit h f b s).2).cfg = s.cfg := by
  unfold submit; split <;> simp
@[simp] theorem submit_fsm (h : Nat) (f b : Nat) (s : State) : ((submit h f b s).2).fsm = s.fsm := by
  unfold submit; split <;> simp
@[simp] theorem submit_mode (h : Nat) (f b : Nat) (s : State) : ((submit h f b s).2).mode = s.mode := by
  unfold submit; split <;> simp
@[simp] theorem submit_rdback (h : Nat) (f b : Nat) (s : State) : ((submit h f b s).2).rdback = s.rdback := by
  unfold submit; split <;> simp
@[simp] theorem submit_n (h : Nat) (f b : Nat) (s : State) : ((submit h f b s).2).n = s.n := by
  unfold submit; split <;> simp
@[simp] theorem submit_subIdx (h : Nat) (f b : Nat) (s : State) : ((submit h f b s).2).subIdx = s.subIdx := by
  unfold submit; split <;> simp
@[simp] theorem submit_frame (h : Nat) (f b : Nat) (s : State) : ((submit h f b s).2).frame = s.frame := by
  unfold submit; split <;> simp
@[simp] theorem submit_ids (h : Nat) (f b : Nat) (s : State) : ((submit h f b s).2).ids = s.ids := by
  unfold submit; split <;> simp
@[simp] theorem submit_rx (h : Nat) (f b : Nat) (s : State) : ((submit h f b s).2).rx = s.rx := by
  unfold submit; split <;> simp
@[simp] theorem submit_latchReq (h : Nat) (f b : Nat) (s : State) : ((submit h f b s).2).latchReq = s.latchReq := by
  unfold submit; split <;> simp
@[simp] theorem submit_failed (h : Nat) (f b : Nat) (s : State) : ((submit h f b s).2).failed = s.failed := by
  unfold submit; split <;> simp
@[simp] theorem submit_err (h : Nat) (f b : Nat) (s : State) : ((submit h f b s).2).err = s.err := by
  unfold submit; split <;> simp
@[simp] theorem submit_lineSync (h : Nat) (f b : Nat) (s : State) : ((submit h f b s).2).lineSync = s.lineSync := by
  unfold submit; split <;> simp
@[simp] theorem submit_lineLatch (h : Nat) (f b : Nat) (s : State) : ((submit h f b s).2).lineLatch = s.lineLatch := by
  unfold submit; split <;> simp
@[simp] theorem submit_lineReset (h : Nat) (f b : Nat) (s : State) : ((submit h f b s).2).lineReset = s.lineReset := by
  unfold submit; split <;> simp
@[simp] theorem submit_result (h : Nat) (f b : Nat) (s : State) : ((submit h f b s).2).result = s.result := by
  unfold submit; split <;> simp
@[simp] theorem submit_pc (h : Nat) (f b : Nat) (s : State) : ((submit h f b s).2).pc = s.pc := by
  unfold submit; split <;> simp
@[simp] theorem submit_res (h : Nat) (f b : Nat) (s : State) : ((submit h f b s).2).res = s.res := by
  unfold submit; split <;> simp
@[simp] theorem submit_opening (h : Nat) (f b : Nat) (s : State) : ((submit h f b s).2).opening = s.opening := by
  unfold submit; split <;> simp
@[simp] theorem submit_par (h : Nat) (f b : Nat) (s : State) : ((submit h f b s).2).par = s.par := by
  unfold submit; split <;> simp
@[simp] theorem submit_inbox (h : Nat) (f b : Nat) (s : State) : ((submit h f b s).2).inbox = s.inbox := by
  unfold submit; split <;> simp
@[simp] theorem submit_lineAnswers (h : Nat) (f b : Nat) (s : State) : ((submit h f b s).2).lineAnswers = s.lineAnswers := by
  unfold submit; split <;> simp
@[simp] theorem submit_draws (h : Nat) (f b : Nat) (s : State) : ((submit h f b s).2).draws = s.draws := by
  unfold submit; split <;> simp
@[simp] theorem submit_codecOut (h : Nat) (f b : Nat) (s : State) : ((submit h f b s).2).codecOut = s.codecOut := by
  unfold submit; split <;> simp
@[simp] theorem submit_opStart (h : Nat) (f b : Nat) (s : State) : ((submit h f b s).2).opStart = s.opStart := by
  unfold submit; split <;> simp
@[simp] theorem submit_abandonedAt (h : Nat) (f b : Nat) (s : State) : ((submit h f b s).2).abandonedAt = s.abandonedAt := by
  unfold submit; split <;> simp

/-! `awaitReturns` clears completions, joins the trace and records the answer. -/

@[simp] theorem awaitReturns_sessionValid (a : AwaitRes) (s : State) : (awaitReturns a s).sessionValid = s.sessionValid := by
  simp [awaitReturns]
@[simp] theorem awaitReturns_cfg (a : AwaitRes) (s : State) : (awaitReturns a s).cfg = s.cfg := by
  simp [awaitReturns]
@[simp] theorem awaitReturns_fsm (a : AwaitRes) (s : State) : (awaitReturns a s).fsm = s.fsm := by
  simp [awaitReturns]
@[simp] theorem awaitReturns_mode (a : AwaitRes) (s : State) : (awaitReturns a s).mode = s.mode := by
  simp [awaitReturns]
@[simp] theorem awaitReturns_rdback (a : AwaitRes) (s : State) : (awaitReturns a s).rdback = s.rdback := by
  simp [awaitReturns]
@[simp] theorem awaitReturns_n (a : AwaitRes) (s : State) : (awaitReturns a s).n = s.n := by
  simp [awaitReturns]
@[simp] theorem awaitReturns_subIdx (a : AwaitRes) (s : State) : (awaitReturns a s).subIdx = s.subIdx := by
  simp [awaitReturns]
@[simp] theorem awaitReturns_frame (a : AwaitRes) (s : State) : (awaitReturns a s).frame = s.frame := by
  simp [awaitReturns]
@[simp] theorem awaitReturns_ids (a : AwaitRes) (s : State) : (awaitReturns a s).ids = s.ids := by
  simp [awaitReturns]
@[simp] theorem awaitReturns_rx (a : AwaitRes) (s : State) : (awaitReturns a s).rx = s.rx := by
  simp [awaitReturns]
@[simp] theorem awaitReturns_latchReq (a : AwaitRes) (s : State) : (awaitReturns a s).latchReq = s.latchReq := by
  simp [awaitReturns]
@[simp] theorem awaitReturns_lineSync (a : AwaitRes) (s : State) : (awaitReturns a s).lineSync = s.lineSync := by
  simp [awaitReturns]
@[simp] theorem awaitReturns_lineLatch (a : AwaitRes) (s : State) : (awaitReturns a s).lineLatch = s.lineLatch := by
  simp [awaitReturns]
@[simp] theorem awaitReturns_lineReset (a : AwaitRes) (s : State) : (awaitReturns a s).lineReset = s.lineReset := by
  simp [awaitReturns]
@[simp] theorem awaitReturns_result (a : AwaitRes) (s : State) : (awaitReturns a s).result = s.result := by
  simp [awaitReturns]
@[simp] theorem awaitReturns_pc (a : AwaitRes) (s : State) : (awaitReturns a s).pc = s.pc := by
  simp [awaitReturns]
@[simp] theorem awaitReturns_res (a : AwaitRes) (s : State) : (awaitReturns a s).res = s.res := by
  simp [awaitReturns]
@[simp] theorem awaitReturns_opening (a : AwaitRes) (s : State) : (awaitReturns a s).opening = s.opening := by
  simp [awaitReturns]
@[simp] theorem awaitReturns_par (a : AwaitRes) (s : State) : (awaitReturns a s).par = s.par := by
  simp [awaitReturns]
@[simp] theorem awaitReturns_transport (a : AwaitRes) (s : State) : (awaitReturns a s).transport = clearCompletions s.transport (awaitedIds s) := by
  simp [awaitReturns]
@[simp] theorem awaitReturns_inbox (a : AwaitRes) (s : State) : (awaitReturns a s).inbox = s.inbox := by
  simp [awaitReturns]
@[simp] theorem awaitReturns_lineAnswers (a : AwaitRes) (s : State) : (awaitReturns a s).lineAnswers = s.lineAnswers := by
  simp [awaitReturns]
@[simp] theorem awaitReturns_draws (a : AwaitRes) (s : State) : (awaitReturns a s).draws = s.draws := by
  simp [awaitReturns]
@[simp] theorem awaitReturns_codecOut (a : AwaitRes) (s : State) : (awaitReturns a s).codecOut = s.codecOut := by
  simp [awaitReturns]
@[simp] theorem awaitReturns_trace (a : AwaitRes) (s : State) : (awaitReturns a s).trace = s.trace ++ [.await (awaitedIds s) a] := by
  simp [awaitReturns]
@[simp] theorem awaitReturns_opStart (a : AwaitRes) (s : State) : (awaitReturns a s).opStart = s.opStart := by
  simp [awaitReturns]
@[simp] theorem awaitReturns_abandonedAt (a : AwaitRes) (s : State) : (awaitReturns a s).abandonedAt = s.abandonedAt := by
  simp [awaitReturns]

/-! `takeRx` writes `RX`. -/

@[simp] theorem takeRx_sessionValid (a : AwaitRes) (cs : List Completion) (s : State) : (takeRx a cs s).sessionValid = s.sessionValid := by
  unfold takeRx; split <;> rfl
@[simp] theorem takeRx_cfg (a : AwaitRes) (cs : List Completion) (s : State) : (takeRx a cs s).cfg = s.cfg := by
  unfold takeRx; split <;> rfl
@[simp] theorem takeRx_fsm (a : AwaitRes) (cs : List Completion) (s : State) : (takeRx a cs s).fsm = s.fsm := by
  unfold takeRx; split <;> rfl
@[simp] theorem takeRx_mode (a : AwaitRes) (cs : List Completion) (s : State) : (takeRx a cs s).mode = s.mode := by
  unfold takeRx; split <;> rfl
@[simp] theorem takeRx_rdback (a : AwaitRes) (cs : List Completion) (s : State) : (takeRx a cs s).rdback = s.rdback := by
  unfold takeRx; split <;> rfl
@[simp] theorem takeRx_n (a : AwaitRes) (cs : List Completion) (s : State) : (takeRx a cs s).n = s.n := by
  unfold takeRx; split <;> rfl
@[simp] theorem takeRx_subIdx (a : AwaitRes) (cs : List Completion) (s : State) : (takeRx a cs s).subIdx = s.subIdx := by
  unfold takeRx; split <;> rfl
@[simp] theorem takeRx_frame (a : AwaitRes) (cs : List Completion) (s : State) : (takeRx a cs s).frame = s.frame := by
  unfold takeRx; split <;> rfl
@[simp] theorem takeRx_ids (a : AwaitRes) (cs : List Completion) (s : State) : (takeRx a cs s).ids = s.ids := by
  unfold takeRx; split <;> rfl
@[simp] theorem takeRx_latchReq (a : AwaitRes) (cs : List Completion) (s : State) : (takeRx a cs s).latchReq = s.latchReq := by
  unfold takeRx; split <;> rfl
@[simp] theorem takeRx_failed (a : AwaitRes) (cs : List Completion) (s : State) : (takeRx a cs s).failed = s.failed := by
  unfold takeRx; split <;> rfl
@[simp] theorem takeRx_err (a : AwaitRes) (cs : List Completion) (s : State) : (takeRx a cs s).err = s.err := by
  unfold takeRx; split <;> rfl
@[simp] theorem takeRx_lineSync (a : AwaitRes) (cs : List Completion) (s : State) : (takeRx a cs s).lineSync = s.lineSync := by
  unfold takeRx; split <;> rfl
@[simp] theorem takeRx_lineLatch (a : AwaitRes) (cs : List Completion) (s : State) : (takeRx a cs s).lineLatch = s.lineLatch := by
  unfold takeRx; split <;> rfl
@[simp] theorem takeRx_lineReset (a : AwaitRes) (cs : List Completion) (s : State) : (takeRx a cs s).lineReset = s.lineReset := by
  unfold takeRx; split <;> rfl
@[simp] theorem takeRx_result (a : AwaitRes) (cs : List Completion) (s : State) : (takeRx a cs s).result = s.result := by
  unfold takeRx; split <;> rfl
@[simp] theorem takeRx_pc (a : AwaitRes) (cs : List Completion) (s : State) : (takeRx a cs s).pc = s.pc := by
  unfold takeRx; split <;> rfl
@[simp] theorem takeRx_res (a : AwaitRes) (cs : List Completion) (s : State) : (takeRx a cs s).res = s.res := by
  unfold takeRx; split <;> rfl
@[simp] theorem takeRx_opening (a : AwaitRes) (cs : List Completion) (s : State) : (takeRx a cs s).opening = s.opening := by
  unfold takeRx; split <;> rfl
@[simp] theorem takeRx_par (a : AwaitRes) (cs : List Completion) (s : State) : (takeRx a cs s).par = s.par := by
  unfold takeRx; split <;> rfl
@[simp] theorem takeRx_transport (a : AwaitRes) (cs : List Completion) (s : State) : (takeRx a cs s).transport = s.transport := by
  unfold takeRx; split <;> rfl
@[simp] theorem takeRx_inbox (a : AwaitRes) (cs : List Completion) (s : State) : (takeRx a cs s).inbox = s.inbox := by
  unfold takeRx; split <;> rfl
@[simp] theorem takeRx_lineAnswers (a : AwaitRes) (cs : List Completion) (s : State) : (takeRx a cs s).lineAnswers = s.lineAnswers := by
  unfold takeRx; split <;> rfl
@[simp] theorem takeRx_draws (a : AwaitRes) (cs : List Completion) (s : State) : (takeRx a cs s).draws = s.draws := by
  unfold takeRx; split <;> rfl
@[simp] theorem takeRx_codecOut (a : AwaitRes) (cs : List Completion) (s : State) : (takeRx a cs s).codecOut = s.codecOut := by
  unfold takeRx; split <;> rfl
@[simp] theorem takeRx_trace (a : AwaitRes) (cs : List Completion) (s : State) : (takeRx a cs s).trace = s.trace := by
  unfold takeRx; split <;> rfl
@[simp] theorem takeRx_opStart (a : AwaitRes) (cs : List Completion) (s : State) : (takeRx a cs s).opStart = s.opStart := by
  unfold takeRx; split <;> rfl
@[simp] theorem takeRx_abandonedAt (a : AwaitRes) (cs : List Completion) (s : State) : (takeRx a cs s).abandonedAt = s.abandonedAt := by
  unfold takeRx; split <;> rfl

/-! `perform` writes the transport and joins the trace. -/

@[simp] theorem perform_sessionValid (id : Nat) (ok : Bool) (rx : Nat) (s : State) : (perform id ok rx s).sessionValid = s.sessionValid := by
  unfold perform; split <;> simp
@[simp] theorem perform_cfg (id : Nat) (ok : Bool) (rx : Nat) (s : State) : (perform id ok rx s).cfg = s.cfg := by
  unfold perform; split <;> simp
@[simp] theorem perform_fsm (id : Nat) (ok : Bool) (rx : Nat) (s : State) : (perform id ok rx s).fsm = s.fsm := by
  unfold perform; split <;> simp
@[simp] theorem perform_mode (id : Nat) (ok : Bool) (rx : Nat) (s : State) : (perform id ok rx s).mode = s.mode := by
  unfold perform; split <;> simp
@[simp] theorem perform_rdback (id : Nat) (ok : Bool) (rx : Nat) (s : State) : (perform id ok rx s).rdback = s.rdback := by
  unfold perform; split <;> simp
@[simp] theorem perform_n (id : Nat) (ok : Bool) (rx : Nat) (s : State) : (perform id ok rx s).n = s.n := by
  unfold perform; split <;> simp
@[simp] theorem perform_subIdx (id : Nat) (ok : Bool) (rx : Nat) (s : State) : (perform id ok rx s).subIdx = s.subIdx := by
  unfold perform; split <;> simp
@[simp] theorem perform_frame (id : Nat) (ok : Bool) (rx : Nat) (s : State) : (perform id ok rx s).frame = s.frame := by
  unfold perform; split <;> simp
@[simp] theorem perform_ids (id : Nat) (ok : Bool) (rx : Nat) (s : State) : (perform id ok rx s).ids = s.ids := by
  unfold perform; split <;> simp
@[simp] theorem perform_rx (id : Nat) (ok : Bool) (rx : Nat) (s : State) : (perform id ok rx s).rx = s.rx := by
  unfold perform; split <;> simp
@[simp] theorem perform_latchReq (id : Nat) (ok : Bool) (rx : Nat) (s : State) : (perform id ok rx s).latchReq = s.latchReq := by
  unfold perform; split <;> simp
@[simp] theorem perform_failed (id : Nat) (ok : Bool) (rx : Nat) (s : State) : (perform id ok rx s).failed = s.failed := by
  unfold perform; split <;> simp
@[simp] theorem perform_err (id : Nat) (ok : Bool) (rx : Nat) (s : State) : (perform id ok rx s).err = s.err := by
  unfold perform; split <;> simp
@[simp] theorem perform_lineSync (id : Nat) (ok : Bool) (rx : Nat) (s : State) : (perform id ok rx s).lineSync = s.lineSync := by
  unfold perform; split <;> simp
@[simp] theorem perform_lineLatch (id : Nat) (ok : Bool) (rx : Nat) (s : State) : (perform id ok rx s).lineLatch = s.lineLatch := by
  unfold perform; split <;> simp
@[simp] theorem perform_lineReset (id : Nat) (ok : Bool) (rx : Nat) (s : State) : (perform id ok rx s).lineReset = s.lineReset := by
  unfold perform; split <;> simp
@[simp] theorem perform_result (id : Nat) (ok : Bool) (rx : Nat) (s : State) : (perform id ok rx s).result = s.result := by
  unfold perform; split <;> simp
@[simp] theorem perform_pc (id : Nat) (ok : Bool) (rx : Nat) (s : State) : (perform id ok rx s).pc = s.pc := by
  unfold perform; split <;> simp
@[simp] theorem perform_res (id : Nat) (ok : Bool) (rx : Nat) (s : State) : (perform id ok rx s).res = s.res := by
  unfold perform; split <;> simp
@[simp] theorem perform_opening (id : Nat) (ok : Bool) (rx : Nat) (s : State) : (perform id ok rx s).opening = s.opening := by
  unfold perform; split <;> simp
@[simp] theorem perform_par (id : Nat) (ok : Bool) (rx : Nat) (s : State) : (perform id ok rx s).par = s.par := by
  unfold perform; split <;> simp
@[simp] theorem perform_inbox (id : Nat) (ok : Bool) (rx : Nat) (s : State) : (perform id ok rx s).inbox = s.inbox := by
  unfold perform; split <;> simp
@[simp] theorem perform_lineAnswers (id : Nat) (ok : Bool) (rx : Nat) (s : State) : (perform id ok rx s).lineAnswers = s.lineAnswers := by
  unfold perform; split <;> simp
@[simp] theorem perform_draws (id : Nat) (ok : Bool) (rx : Nat) (s : State) : (perform id ok rx s).draws = s.draws := by
  unfold perform; split <;> simp
@[simp] theorem perform_codecOut (id : Nat) (ok : Bool) (rx : Nat) (s : State) : (perform id ok rx s).codecOut = s.codecOut := by
  unfold perform; split <;> simp
@[simp] theorem perform_opStart (id : Nat) (ok : Bool) (rx : Nat) (s : State) : (perform id ok rx s).opStart = s.opStart := by
  unfold perform; split <;> simp
@[simp] theorem perform_abandonedAt (id : Nat) (ok : Bool) (rx : Nat) (s : State) : (perform id ok rx s).abandonedAt = s.abandonedAt := by
  unfold perform; split <;> simp

/-! `evalEncode` writes the codec's window. -/

@[simp] theorem evalEncode_sessionValid (T : FamilyTable) (w : RegisterWord) (s : State) : (evalEncode T w s).sessionValid = s.sessionValid := by
  unfold evalEncode; split <;> rfl
@[simp] theorem evalEncode_cfg (T : FamilyTable) (w : RegisterWord) (s : State) : (evalEncode T w s).cfg = s.cfg := by
  unfold evalEncode; split <;> rfl
@[simp] theorem evalEncode_fsm (T : FamilyTable) (w : RegisterWord) (s : State) : (evalEncode T w s).fsm = s.fsm := by
  unfold evalEncode; split <;> rfl
@[simp] theorem evalEncode_mode (T : FamilyTable) (w : RegisterWord) (s : State) : (evalEncode T w s).mode = s.mode := by
  unfold evalEncode; split <;> rfl
@[simp] theorem evalEncode_rdback (T : FamilyTable) (w : RegisterWord) (s : State) : (evalEncode T w s).rdback = s.rdback := by
  unfold evalEncode; split <;> rfl
@[simp] theorem evalEncode_n (T : FamilyTable) (w : RegisterWord) (s : State) : (evalEncode T w s).n = s.n := by
  unfold evalEncode; split <;> rfl
@[simp] theorem evalEncode_subIdx (T : FamilyTable) (w : RegisterWord) (s : State) : (evalEncode T w s).subIdx = s.subIdx := by
  unfold evalEncode; split <;> rfl
@[simp] theorem evalEncode_frame (T : FamilyTable) (w : RegisterWord) (s : State) : (evalEncode T w s).frame = s.frame := by
  unfold evalEncode; split <;> rfl
@[simp] theorem evalEncode_ids (T : FamilyTable) (w : RegisterWord) (s : State) : (evalEncode T w s).ids = s.ids := by
  unfold evalEncode; split <;> rfl
@[simp] theorem evalEncode_rx (T : FamilyTable) (w : RegisterWord) (s : State) : (evalEncode T w s).rx = s.rx := by
  unfold evalEncode; split <;> rfl
@[simp] theorem evalEncode_latchReq (T : FamilyTable) (w : RegisterWord) (s : State) : (evalEncode T w s).latchReq = s.latchReq := by
  unfold evalEncode; split <;> rfl
@[simp] theorem evalEncode_failed (T : FamilyTable) (w : RegisterWord) (s : State) : (evalEncode T w s).failed = s.failed := by
  unfold evalEncode; split <;> rfl
@[simp] theorem evalEncode_err (T : FamilyTable) (w : RegisterWord) (s : State) : (evalEncode T w s).err = s.err := by
  unfold evalEncode; split <;> rfl
@[simp] theorem evalEncode_lineSync (T : FamilyTable) (w : RegisterWord) (s : State) : (evalEncode T w s).lineSync = s.lineSync := by
  unfold evalEncode; split <;> rfl
@[simp] theorem evalEncode_lineLatch (T : FamilyTable) (w : RegisterWord) (s : State) : (evalEncode T w s).lineLatch = s.lineLatch := by
  unfold evalEncode; split <;> rfl
@[simp] theorem evalEncode_lineReset (T : FamilyTable) (w : RegisterWord) (s : State) : (evalEncode T w s).lineReset = s.lineReset := by
  unfold evalEncode; split <;> rfl
@[simp] theorem evalEncode_result (T : FamilyTable) (w : RegisterWord) (s : State) : (evalEncode T w s).result = s.result := by
  unfold evalEncode; split <;> rfl
@[simp] theorem evalEncode_pc (T : FamilyTable) (w : RegisterWord) (s : State) : (evalEncode T w s).pc = s.pc := by
  unfold evalEncode; split <;> rfl
@[simp] theorem evalEncode_res (T : FamilyTable) (w : RegisterWord) (s : State) : (evalEncode T w s).res = s.res := by
  unfold evalEncode; split <;> rfl
@[simp] theorem evalEncode_opening (T : FamilyTable) (w : RegisterWord) (s : State) : (evalEncode T w s).opening = s.opening := by
  unfold evalEncode; split <;> rfl
@[simp] theorem evalEncode_par (T : FamilyTable) (w : RegisterWord) (s : State) : (evalEncode T w s).par = s.par := by
  unfold evalEncode; split <;> rfl
@[simp] theorem evalEncode_transport (T : FamilyTable) (w : RegisterWord) (s : State) : (evalEncode T w s).transport = s.transport := by
  unfold evalEncode; split <;> rfl
@[simp] theorem evalEncode_inbox (T : FamilyTable) (w : RegisterWord) (s : State) : (evalEncode T w s).inbox = s.inbox := by
  unfold evalEncode; split <;> rfl
@[simp] theorem evalEncode_lineAnswers (T : FamilyTable) (w : RegisterWord) (s : State) : (evalEncode T w s).lineAnswers = s.lineAnswers := by
  unfold evalEncode; split <;> rfl
@[simp] theorem evalEncode_draws (T : FamilyTable) (w : RegisterWord) (s : State) : (evalEncode T w s).draws = s.draws := by
  unfold evalEncode; split <;> rfl
@[simp] theorem evalEncode_trace (T : FamilyTable) (w : RegisterWord) (s : State) : (evalEncode T w s).trace = s.trace := by
  unfold evalEncode; split <;> rfl
@[simp] theorem evalEncode_opStart (T : FamilyTable) (w : RegisterWord) (s : State) : (evalEncode T w s).opStart = s.opStart := by
  unfold evalEncode; split <;> rfl
@[simp] theorem evalEncode_abandonedAt (T : FamilyTable) (w : RegisterWord) (s : State) : (evalEncode T w s).abandonedAt = s.abandonedAt := by
  unfold evalEncode; split <;> rfl

end Sys2Proof.Machine
end

