-- ==== Sys2Proof/Laws/Invariant.lean ====
section
/-! SUPPORT. Which fields the invariant of the registers reads: a state that agrees with another on them meets it too. -/

namespace Sys2Proof.Machine

theorem SessionOk.congr {s t : State} (h : SessionOk s) (hp : t.par = s.par) (hc : t.cfg = s.cfg) : SessionOk t := by
  obtain ⟨a, b, c⟩ := h
  constructor <;> simp_all [sessionTable?]

theorem OpeningOk.congr {s t : State} {o : Opening} (h : OpeningOk s o) (hp : t.par = s.par)
    (hv : t.sessionValid = s.sessionValid) : OpeningOk t o := by
  obtain ⟨a, b, c, d⟩ := h
  constructor <;> simp_all

theorem FlightOk.congr {s t : State} (h : FlightOk s) (hp : t.par = s.par) (hc : t.cfg = s.cfg)
    (h1 : t.sessionValid = s.sessionValid) (h2 : t.fsm = s.fsm) (h3 : t.mode = s.mode) (h4 : t.rdback = s.rdback)
    (h5 : t.n = s.n) (h6 : t.subIdx = s.subIdx) (h7 : t.frame = s.frame) (h8 : t.latchReq = s.latchReq)
    (h9 : t.failed = s.failed) (h10 : t.pc = s.pc) (h11 : t.res = s.res) (h12 : t.err = s.err) : FlightOk t := by
  obtain ⟨a1, a2, a3, a4, a5, a6, a7, a8, a9, a10, a11, a12, a13, a14, a15, a16, a17, a18⟩ := h
  constructor <;> simp only [h1, h2, h3, h4, h5, h6, h7, h8, h9, h10, h11, h12, hp, hc, sessionTable?, confirmedSoFar] <;>
    assumption

/-- The fields the invariant reads but for the line registers and the OPEN in progress. -/
structure SameRegisters (s t : State) : Prop where
  par          : t.par = s.par
  cfg          : t.cfg = s.cfg
  sessionValid : t.sessionValid = s.sessionValid
  fsm          : t.fsm = s.fsm
  mode         : t.mode = s.mode
  rdback       : t.rdback = s.rdback
  n            : t.n = s.n
  subIdx       : t.subIdx = s.subIdx
  frame        : t.frame = s.frame
  latchReq     : t.latchReq = s.latchReq
  failed       : t.failed = s.failed
  err          : t.err = s.err
  pc           : t.pc = s.pc
  res          : t.res = s.res
  ids          : t.ids = s.ids
  rx           : t.rx = s.rx
  transport    : t.transport = s.transport

theorem Inv.congr {s t : State} (h : Inv s) (e : SameRegisters s t)
    (ho : ∀ o, t.opening = some o → OpeningOk t o)
    (hl : t.sessionValid = true → ∀ r, t.cfg.pins.ctl r = none → getLine r t = .unknown) : Inv t := by
  obtain ⟨hp, hc, h1, h2, h3, h4, h5, h6, h7, h8, h9, h12', h10, h11, h12, h13, h14⟩ := e
  refine ⟨by simp [hp, h.par], by simp [h7, hp, h.frameLen], by simp [h12, hp, h.idsLen], by simp [h2, h10, h.pc],
    fun hv => (h.session (by simpa [h1] using hv)).congr hp hc, ho, hl,
    fun hf => (h.flight (by simpa [h2] using hf)).congr hp hc h1 h2 h3 h4 h5 h6 h7 h8 h9 h10 h11 h12',
    by simpa [h14] using h.transport, ?_, ?_⟩
  · simpa only [h2, h10, sessionTable?, hp, hc, awaitedIds, h12, h6, h14] using h.held
  · simpa only [h2, h10, sessionTable?, hp, hc, h4, h9, h13] using h.rxLen

/-- A state that differs in the fields the invariant does not read. -/
theorem Inv.same {s t : State} (h : Inv s) (e : SameRegisters s t) (ho : t.opening = s.opening)
    (hl : ∀ r, getLine r t = getLine r s) : Inv t :=
  h.congr e (fun o k => (h.opening o (ho ▸ k)).congr e.par e.sessionValid)
    (fun hv r k => by rw [hl]; exact h.unassigned (e.sessionValid ▸ hv) r (e.cfg ▸ k))

end Sys2Proof.Machine
end

