-- ==== Sys2Proof/Laws/Ops.lean ====
section
/-! SUPPORT. For each shared operation, once, everything it can do; proofs cite these and do not unfold the operation. -/

namespace Sys2Proof.Machine

/-! ### Control lines -/

theorem setLine_unassigned {p : Pins} {r : CtlLine} (h : p.ctl r = none) (v : Level) (s : State) :
    setLine p r v s = (true, s) := by
  simp [setLine, h]

theorem setLine_assigned {p : Pins} {r : CtlLine} (h : (p.ctl r).isSome = true) (v : Level) (s : State) :
    (setLine p r v s).2.trace = s.trace ++ [.line r v (setLine p r v s).1] ∧
    getLine r (setLine p r v s).2 = lineAfter (setLine p r v s).1 v ∧
    ∀ q, q ≠ r → getLine q (setLine p r v s).2 = getLine q s := by
  obtain ⟨l, hl⟩ := Option.isSome_iff_exists.mp h
  refine ⟨by simp [setLine, hl], ?_, ?_⟩
  · cases r <;> simp [setLine, hl, getLine, putLine]
  · intro q hq
    cases r <;> cases q <;> simp_all [setLine, getLine, putLine]

theorem pulseLine_unassigned {p : Pins} {r : CtlLine} (h : p.ctl r = none) (d : Nat) (s : State) :
    pulseLine p r d s = (true, s) := by
  simp [pulseLine, h]

theorem pulseLine_assigned {p : Pins} {r : CtlLine} (h : (p.ctl r).isSome = true) (d : Nat) (s : State) :
    (pulseLine p r d s).2.trace = s.trace ++ [.pulse r d (pulseLine p r d s).1] ∧
    getLine r (pulseLine p r d s).2 = lineAfter (pulseLine p r d s).1 (idleLevel s.par r) ∧
    ∀ q, q ≠ r → getLine q (pulseLine p r d s).2 = getLine q s := by
  obtain ⟨l, hl⟩ := Option.isSome_iff_exists.mp h
  refine ⟨by simp [pulseLine, hl], ?_, ?_⟩
  · cases r <;> simp [pulseLine, hl, getLine, putLine]
  · intro q hq
    cases r <;> cases q <;> simp_all [pulseLine, getLine, putLine]

/-! ### Errors -/

theorem recordError_of_failed {s : State} (h : s.failed = true) (e : Error) : recordError e s = s := by
  simp [recordError, h]

theorem recordError_of_clean {s : State} (h : s.failed = false) (e : Error) :
    recordError e s = { s with failed := true, err := e } := by
  simp [recordError, h]

theorem recordLine_ok {a : Bool × State} (h : a.1 = true) : recordLine a = a.2 := by
  simp [recordLine, h]

theorem recordLine_failed {a : Bool × State} (h : a.1 = false) :
    recordLine a = recordError .lineSequencingFailed a.2 := by
  simp [recordLine, h]

/-! ### The transport -/

theorem submit_full {h : Nat} {s : State} (hq : queueFull s.transport h = true) (f b : Nat) :
    submit h f b s = (none, emit .subFull s) := by
  simp [submit, hq]

theorem submit_accepted {h : Nat} {s : State} (hq : queueFull s.transport h = false) (f b : Nat) :
    submit h f b s = (some s.transport.nextId,
      emit (.sub s.transport.nextId f b) { s with transport := enqueue s.transport h f b }) := by
  simp [submit, hq]

theorem perform_absent {s : State} {id : Nat} (h : ∀ x ∈ s.transport.outstanding, x.id ≠ id) (ok : Bool)
    (rx : Nat) : perform id ok rx s = s := by
  have : s.transport.outstanding.find? (fun x => x.id == id) = none := by
    simpa [List.find?_eq_none] using h
  simp [perform, this]

theorem perform_cases (id : Nat) (ok : Bool) (rx : Nat) (s : State) :
    perform id ok rx s = s ∨
    ∃ x ∈ s.transport.outstanding, x.id = id ∧
      perform id ok rx s = emit (.perf id ok) { s with transport := completeTransfer s.transport x ok rx } := by
  unfold perform
  split
  · exact .inl rfl
  · rename_i x hx
    exact .inr ⟨x, List.mem_of_find?_eq_some hx, by simpa using List.find?_some hx, rfl⟩

theorem completionOf?_some {t : Transport} {id : Nat} {c : Completion} (h : completionOf? t id = some c) :
    c ∈ t.completions ∧ c.id = id :=
  ⟨List.mem_of_find?_eq_some h, by simpa using List.find?_some h⟩

theorem completionsOf?_some {t : Transport} : ∀ {ids : List Nat} {cs : List Completion},
    completionsOf? t ids = some cs → cs.map (·.id) = ids ∧ ∀ c ∈ cs, c ∈ t.completions
  | [], cs, h => by simp_all [completionsOf?]
  | id :: ids, cs, h => by
    unfold completionsOf? at h
    split at h
    · rename_i c cs' hc hcs
      obtain ⟨hmap, hmem⟩ := completionsOf?_some hcs
      obtain ⟨hin, hid⟩ := completionOf?_some hc
      cases h
      simp_all
    · cases h

/-! ### Encoding -/

theorem encodeValue_ok {T : FamilyTable} {w : RegisterWord} {f : Nat} (h : encodeValue T w = .ok f) :
    representable T w = true ∧ frameValue? T w = some f := by
  unfold encodeValue at h
  split at h
  · split at h <;> simp_all
  · cases h

theorem encodeValue_error {T : FamilyTable} {w : RegisterWord} {e : Error} (h : encodeValue T w = .error e) :
    e = .unsupportedField := by
  unfold encodeValue at h
  split at h
  · split at h <;> simp_all
  · simp_all

theorem encodeAll_ok {T : FamilyTable} : ∀ {ws : List RegisterWord} {fs : List Nat}, encodeAll T ws = .ok fs →
    fs.length = ws.length ∧ ∀ f ∈ fs, ∃ w ∈ ws, encodeValue T w = .ok f
  | [], fs, h => by simp_all [encodeAll]
  | w :: ws, fs, h => by
    unfold encodeAll at h
    split at h
    · cases h
    · rename_i f hf
      split at h
      · cases h
      · rename_i fs' hfs
        obtain ⟨hlen, hall⟩ := encodeAll_ok hfs
        cases h
        refine ⟨by simp [hlen], fun g hg => ?_⟩
        rcases List.mem_cons.mp hg with rfl | hg
        · exact ⟨w, by simp, hf⟩
        · obtain ⟨v, hv, hv'⟩ := hall g hg
          exact ⟨v, by simp [hv], hv'⟩

theorem encodeAll_error {T : FamilyTable} : ∀ {ws : List RegisterWord} {e : Error}, encodeAll T ws = .error e →
    e = .unsupportedField
  | [], e, h => by simp [encodeAll] at h
  | w :: ws, e, h => by
    unfold encodeAll at h
    split at h
    · rename_i hf
      cases h
      exact encodeValue_error hf
    · split at h
      · rename_i hws
        cases h
        exact encodeAll_error hws
      · cases h

/-! ### Admission, OPEN and the engine -/

/-- The errors admission can refuse with (R142). -/
def isAdmissionError : Error → Bool
  | .noSession | .transportBusy | .unsupportedField | .queueFull => true
  | _ => false

/-- What hands the session's table entry on answers a next state only where there is one. -/
theorem withTable_next {s s' : State} {k : FamilyTable → StepOutcome} (h : withTable s k = .next s') :
    ∃ T, sessionTable? s = some T ∧ k T = .next s' := by
  unfold withTable at h
  split at h
  · rename_i T hT
    exact ⟨T, hT, h⟩
  · cases h

/-- Everything admission can do (R142): refuse with one of four errors, or load the engine. -/
theorem admission_cases {op : HostOp} {m : Mode} {b : Bool} {ws : List RegisterWord} {l : Bool} {s s' : State}
    (h : admission op m b ws l s = .next s') :
    (∃ e, isAdmissionError e = true ∧ s' = refuseOp op e s) ∨
    (∃ T fs, s.sessionValid = true ∧ s.fsm = .idle ∧ sessionTable? s = some T ∧ readBackMissing T b s = false ∧
      batchTooLong m ws s = false ∧ encodeAll T ws = .ok fs ∧ s' = loadEngine m b fs l s) := by
  unfold admission at h
  split at h
  · cases h; exact .inl ⟨_, rfl, rfl⟩
  · rename_i hv
    split at h
    · cases h; exact .inl ⟨_, rfl, rfl⟩
    · rename_i hi
      obtain ⟨T, hT, h⟩ := withTable_next h
      split at h
      · cases h; exact .inl ⟨_, rfl, rfl⟩
      · split at h
        · cases h; exact .inl ⟨_, rfl, rfl⟩
        · split at h
          · rename_i e he
            cases h; exact .inl ⟨_, by rw [encodeAll_error he]; rfl, rfl⟩
          · rename_i fs hfs
            cases h
            exact .inr ⟨T, fs, by simpa using hv, by simpa using hi, hT, by simp_all, by simp_all, hfs, rfl⟩

/-- Everything OPEN's own step can do when it answers a next state (R180 O1, O2, R229). -/
theorem execOpen_cases {h : Nat} {c : OpenCfg} {s s' : State} (he : execOpen h c s = .next s') :
    ((s.sessionValid = true ∨ s.opening.isSome = true) ∧ s' = refuseOp .openOp .transportBusy s) ∨
    (∃ T, s.sessionValid = false ∧ s.opening = none ∧ s.par.table? c.deviceFamily = some T ∧
      depthExpressible c s = true ∧
      ((pinMissing T c.pins = true ∧ s' = refuseOp .openOp .missingPin s) ∨
       (pinMissing T c.pins = false ∧ s' = { s with opening := some ⟨h, c, .sync⟩ }))) := by
  unfold execOpen at he
  split at he
  · rename_i hb
    cases he
    exact .inl ⟨by simpa using hb, rfl⟩
  · rename_i hb
    split at he
    · cases he
    · rename_i T hT
      split at he
      · rename_i hd
        cases he
        simp only [Bool.or_eq_true, not_or, Bool.not_eq_true, Option.isSome_eq_false_iff, Option.isNone_iff_eq_none] at hb
        refine .inr ⟨T, hb.1, hb.2, hT, hd, ?_⟩
        unfold beginOpen
        split
        · exact .inl ⟨by assumption, rfl⟩
        · rename_i hp
          exact .inr ⟨by simpa using hp, rfl⟩
      · cases he

/-- What a line of OPEN does after its line call: it goes on, or OPEN returns next (R180 O3). -/
theorem openNext_cases (o : Opening) (l : OpenLine) (a : Bool × State) :
    (a.1 = true ∧ openNext o l a = { a.2 with opening := some { o with line := l } }) ∨
    (a.1 = false ∧ openNext o l a = { a.2 with opening := some { o with line := .failed } }) := by
  unfold openNext
  cases a.1 <;> simp

/-- RESET_PULSE is a pulse of an assigned RESET in a family that asks for it, and otherwise nothing (R125, R183). -/
theorem openPulse_cases (T : FamilyTable) (p : Pins) (s : State) :
    openPulse T p s = (true, s) ∨ openPulse T p s = pulseLine p .reset T.tResetLowMin s := by
  unfold openPulse resetPulse
  split
  · exact .inr rfl
  · exact .inl rfl

/-- Everything a line of OPEN can do when it answers a next state (R180 O3, O4, R183): one line call, after which OPEN
goes on or fails; or its return, with the session established or with the error. -/
theorem openStep_cases {o : Opening} {s s' : State} (h : openStep o s = .next s') :
    (∃ r v l, s' = openNext o l (setLine o.cfg.pins r v s) ∧
      (o.line, r, v, l) ∈ [(OpenLine.sync, CtlLine.sync, Level.high, OpenLine.latch),
        (.latch, .latch, s.par.latchIdle, .reset), (.reset, .reset, .high, .pulse)]) ∨
    (∃ T, o.line = .pulse ∧ s.par.table? o.cfg.deviceFamily = some T ∧ s' = openNext o .done (openPulse T o.cfg.pins s)) ∨
    (o.line = .done ∧ s' = establish o.handle o.cfg s) ∨
    (o.line = .failed ∧ s' = refuseOp .openOp .lineSequencingFailed { s with opening := none }) := by
  unfold openStep at h
  split at h
  · rename_i hl
    cases h
    exact .inl ⟨.sync, .high, .latch, rfl, by simp [hl]⟩
  · rename_i hl
    cases h
    exact .inl ⟨.latch, s.par.latchIdle, .reset, rfl, by simp [hl]⟩
  · rename_i hl
    cases h
    exact .inl ⟨.reset, .high, .pulse, rfl, by simp [hl]⟩
  · split at h
    · rename_i T hT
      cases h
      exact .inr (.inl ⟨T, by assumption, hT, rfl⟩)
    · cases h
  · cases h
    exact .inr (.inr (.inl ⟨by assumption, rfl⟩))
  · cases h
    exact .inr (.inr (.inr ⟨by assumption, rfl⟩))

/-- The block's move is a line of the OPEN in progress, else of the engine (R53). -/
theorem blockStep_cases (s : State) :
    (∃ o, s.opening = some o ∧ blockStep s = openStep o s) ∨ (s.opening = none ∧ blockStep s = engineStep s) := by
  unfold blockStep
  split
  · exact .inl ⟨_, by assumption, rfl⟩
  · exact .inr ⟨by assumption, rfl⟩

/-- Everything line S2 can do (R143 S2, S3). -/
theorem stepS2_cases {s s' : State} (h : stepS2 s = .next s') :
    (∃ T f, s.subIdx < s.n ∧ s.failed = false ∧ sessionTable? s = some T ∧ s.frame[s.subIdx]? = some f ∧
      s' = afterSubmit (submit s.cfg.handle f T.W s)) ∨
    (¬ (s.subIdx < s.n ∧ s.failed = false) ∧ s' = { s with fsm := .awaitingCompletion, pc := .w1 }) := by
  unfold stepS2 at h
  split at h
  · rename_i hc
    obtain ⟨T, hT, h⟩ := withTable_next h
    split at h
    · rename_i f hf
      cases h
      exact .inl ⟨T, f, hc.1, hc.2, hT, hf, rfl⟩
    · cases h
  · cases h; exact .inr ⟨by assumption, rfl⟩

/-- Everything the end of the maximum wait can do (R43, R203). -/
theorem waitExpires_cases (p : Bool) (s : State) :
    waitExpires p s = s ∨
    (mayExpire s = true ∧ anyCompletedFailed s.transport (awaitedIds s) = true ∧
      waitExpires p s = { awaitReturns .transportFailure s with pc := .w2 }) ∨
    (mayExpire s = true ∧ waitExpires p s = { awaitReturns .timeout s with pc := .w1Sync }) := by
  unfold waitExpires
  split
  · split
    · rename_i h
      exact .inr (.inl ⟨by assumption, by simp_all, rfl⟩)
    · exact .inr (.inr ⟨by assumption, rfl⟩)
  · exact .inl rfl

/-- The inputs a step takes: the next one listed, or a move of the environment (R61, R159). -/
theorem step_cases (s : State) :
    (∃ x xs, s.inbox = x :: xs ∧ step s = deliver x { s with inbox := xs }) ∨
    (s.inbox = [] ∧ step s = envStep (Config.envMove s.draws) { s with draws := s.draws + 1 }) := by
  unfold step
  split
  · rename_i x xs h
    exact .inl ⟨x, xs, h, rfl⟩
  · exact .inr ⟨by assumption, rfl⟩

theorem runSteps_zero (s : State) : runSteps 0 s = .next s := rfl

/-- A run of one step more, where the first step answers a next state. -/
theorem runSteps_next {k : Nat} {s u : State} (h : step s = .next u) : runSteps (k + 1) s = runSteps k u := by
  unfold runSteps
  have h' : Sys2Proof.core.step s = .next u := h
  simp only [Host.Core.run]
  rw [h']

/-- A step at a presentation runs it. -/
theorem step_port {s : State} {w : PortWord} {rest : List Input} (h : s.inbox = .port w :: rest) :
    step s = present w { s with inbox := rest } := by
  simp [step, h, deliver]

/-- A step at a move makes it. -/
theorem step_move {s : State} {m : EnvMove} {rest : List Input} (h : s.inbox = .move m :: rest) :
    step s = envStep m { s with inbox := rest } := by
  simp [step, h, deliver]

end Sys2Proof.Machine
end

