-- ==== Sys2Proof/Laws/PerInstr.lean ====
section
/-! SUPPORT. Statements made for every instruction, one lemma a constructor. `EncodedLength`: how many bytes are
presented for a well-formed instruction: a whole frame of the family (R70, R76, R78), or a host operation's code byte
(R85) and its operand bytes (assumption 2). -/

namespace Sys2Proof.Laws.EncodedLength

/-- The number of bytes of an instruction. -/
def bytesOf : Instr → Nat
  | .ref32WriteOnly _ _ _ _ => 4
  | .ref32WriteAndUpdate _ _ _ _ => 4
  | .ref32UpdateOnly _ _ _ _ => 4
  | .ref32SpanMode _ _ _ _ => 4
  | .ref32PowerMode _ _ _ _ => 4
  | .ref24WriteOnly _ _ _ _ => 3
  | .ref24WriteAndUpdate _ _ _ _ => 3
  | .ref24UpdateOnly _ _ _ _ => 3
  | .hostOpen _ _ => 44
  | .hostWrite _ => 13
  | .hostWriteBatch ws _ => 6 + 12 * ws.length
  | .hostRead _ => 13

/-- A well-formed instruction is presented in as many bytes as its kind has. -/
def Statement (i : Instr) : Prop := i.wf = true → (encode i).bytes.length = bytesOf i

theorem leBytes_length : ∀ k v : Nat, (leBytes k v).length = k
  | 0, _ => rfl
  | k + 1, v => by simp [leBytes, leBytes_length k]

theorem putOpt32_length (v : Option Nat) : (putOpt32 v).length = 5 := by
  cases v <;> simp [putOpt32, leBytes_length]

theorem putRegWord_length (w : RegisterWord) : (putRegWord w).length = 12 := by
  simp [putRegWord, leBytes_length, putOpt32_length]

theorem putRegWords_length : ∀ ws : List RegisterWord, (ws.flatMap putRegWord).length = 12 * ws.length
  | [] => rfl
  | w :: ws => by
    simp only [List.flatMap_cons, List.length_append, putRegWord_length, List.length_cons, putRegWords_length ws]
    omega

theorem putPins_length (p : Pins) : (putPins p).length = 30 := by
  simp [putPins, putOpt32_length]

/-- A word a family can carry has a frame value. -/
theorem frameValue_of_representable {T : FamilyTable} {w : RegisterWord} (h : representable T w = true) :
    ∃ f, frameValue? T w = some f := by
  unfold representable at h
  unfold frameValue?
  cases hc : T.chanRow? w.channel <;> cases hr : T.cmdRow? w.command <;> simp_all

/-- A representable word's frame has the family's length. -/
theorem encodeFrame_length {fam : RefFamily} {w : RegisterWord} (h : representable fam.table w = true) :
    (encodeFrame fam w).bytes.length = fam.table.L := by
  obtain ⟨f, hf⟩ := frameValue_of_representable h
  simp [encodeFrame, hf, PortWord.bytes, frameBytes, FamilyTable.L]

theorem ref32WriteOnly (dir : Direction) (ch : Channel) (data : Nat) (mode : Option Nat) :
    Statement (.ref32WriteOnly dir ch data mode) := encodeFrame_length

theorem ref32WriteAndUpdate (dir : Direction) (ch : Channel) (data : Nat) (mode : Option Nat) :
    Statement (.ref32WriteAndUpdate dir ch data mode) := encodeFrame_length

theorem ref32UpdateOnly (dir : Direction) (ch : Channel) (data : Nat) (mode : Option Nat) :
    Statement (.ref32UpdateOnly dir ch data mode) := encodeFrame_length

theorem ref32SpanMode (dir : Direction) (ch : Channel) (data : Nat) (mode : Option Nat) :
    Statement (.ref32SpanMode dir ch data mode) := encodeFrame_length

theorem ref32PowerMode (dir : Direction) (ch : Channel) (data : Nat) (mode : Option Nat) :
    Statement (.ref32PowerMode dir ch data mode) := encodeFrame_length

theorem ref24WriteOnly (dir : Direction) (ch : Channel) (data : Nat) (mode : Option Nat) :
    Statement (.ref24WriteOnly dir ch data mode) := encodeFrame_length

theorem ref24WriteAndUpdate (dir : Direction) (ch : Channel) (data : Nat) (mode : Option Nat) :
    Statement (.ref24WriteAndUpdate dir ch data mode) := encodeFrame_length

theorem ref24UpdateOnly (dir : Direction) (ch : Channel) (data : Nat) (mode : Option Nat) :
    Statement (.ref24UpdateOnly dir ch data mode) := encodeFrame_length

theorem hostOpen (handle : Nat) (cfg : OpenCfg) : Statement (.hostOpen handle cfg) := fun _ => by
  simp [encode, PortWord.bytes, bytesOf, leBytes_length, putPins_length]

theorem hostWrite (word : RegisterWord) : Statement (.hostWrite word) := fun _ => by
  simp [encode, PortWord.bytes, bytesOf, leBytes_length, putRegWord_length]

theorem hostWriteBatch (words : List RegisterWord) (latchAtEnd : Bool) : Statement (.hostWriteBatch words latchAtEnd) :=
  fun _ => by
    have h := putRegWords_length words
    simp only [encode, PortWord.bytes, bytesOf, List.length_append, leBytes_length, h]
    omega

theorem hostRead (word : RegisterWord) : Statement (.hostRead word) := fun _ => by
  simp [encode, PortWord.bytes, bytesOf, leBytes_length, putRegWord_length]

end Sys2Proof.Laws.EncodedLength
end

