-- ==== Sys2Proof/Laws/Steps.lean ====
section
/-! SUPPORT. Everything a step can do to the transport and to the trace, said once (R41 to R43, R61). -/

namespace Sys2Proof.Machine

/-- An event the transport takes part in (R41). -/
def isTransportEvent : Event → Bool
  | .sub _ _ _ => true
  | .perf _ _ => true
  | .await _ _ => true
  | _ => false

/-- What a step does to the transport and to the trace. -/
inductive PortStep (s s' : State) : Prop where
  | other (es : List Event) (trace : s'.trace = s.trace ++ es) (same : s'.transport = s.transport)
      (quiet : ∀ e ∈ es, isTransportEvent e = false) (few : es.length ≤ 1)
  | submitted (h f n : Nat) (room : queueFull s.transport h = false)
      (transport : s'.transport = enqueue s.transport h f n)
      (trace : s'.trace = s.trace ++ [.sub s.transport.nextId f n])
  | awaited (ids : List Nat) (a : AwaitRes) (transport : s'.transport = clearCompletions s.transport ids)
      (trace : s'.trace = s.trace ++ [.await ids a])
      (answer : a = .ok → ∃ cs, completionsOf? s.transport ids = some cs ∧ ∀ c ∈ cs, c.ok = true)
  | performed (x : Transfer) (ok : Bool) (rx : Nat) (held : x ∈ s.transport.outstanding)
      (transport : s'.transport = completeTransfer s.transport x ok rx)
      (trace : s'.trace = s.trace ++ [.perf x.id ok])

/-- A step that leaves both alone. -/
theorem PortStep.refl {s s' : State} (h1 : s'.trace = s.trace) (h2 : s'.transport = s.transport) : PortStep s s' :=
  .other [] (by simp [h1]) h2 (by simp) (by simp)

/-- A line call leaves the transport and adds at most its own event. -/
theorem setLine_port (p : Pins) (r : CtlLine) (v : Level) (s : State) :
    ∃ es, (setLine p r v s).2.trace = s.trace ++ es ∧ (∀ e ∈ es, isTransportEvent e = false) ∧ es.length ≤ 1 := by
  cases h : p.ctl r
  · exact ⟨[], by simp [setLine_unassigned h]⟩
  · exact ⟨_, (setLine_assigned (p := p) (r := r) (by simp [h]) v s).1, by simp [isTransportEvent]⟩

theorem pulseLine_port (p : Pins) (r : CtlLine) (d : Nat) (s : State) :
    ∃ es, (pulseLine p r d s).2.trace = s.trace ++ es ∧ (∀ e ∈ es, isTransportEvent e = false) ∧ es.length ≤ 1 := by
  cases h : p.ctl r
  · exact ⟨[], by simp [pulseLine_unassigned h]⟩
  · exact ⟨_, (pulseLine_assigned (p := p) (r := r) (by simp [h]) d s).1, by simp [isTransportEvent]⟩

theorem openPulse_port (T : FamilyTable) (p : Pins) (s : State) :
    ∃ es, (openPulse T p s).2.trace = s.trace ++ es ∧ (∀ e ∈ es, isTransportEvent e = false) ∧ es.length ≤ 1 := by
  rcases openPulse_cases T p s with e | e <;> rw [e]
  · exact ⟨[], by simp⟩
  · exact pulseLine_port _ _ _ _

theorem PortStep.line {s s' : State} (h : ∃ es, s'.trace = s.trace ++ es ∧ (∀ e ∈ es, isTransportEvent e = false) ∧ es.length ≤ 1)
    (ht : s'.transport = s.transport) : PortStep s s' := by
  obtain ⟨es, h, hq, hl⟩ := h
  exact .other es h ht hq hl

theorem awaitReturns_port (a : AwaitRes) (s : State) :
    (awaitReturns a s).transport = clearCompletions s.transport (awaitedIds s) ∧
    (awaitReturns a s).trace = s.trace ++ [.await (awaitedIds s) a] := by
  simp

theorem engineStep_port {s s' : State} (hs : engineStep s = .next s') : PortStep s s' := by
  unfold engineStep at hs
  split at hs
  · cases hs; exact .refl rfl rfl
  · split at hs
    · cases hs; exact .refl rfl rfl
    · cases hs; unfold stepS1; split
      · exact .line (by simpa [syncAssert] using setLine_port s.cfg.pins .sync .low s) (by simp [syncAssert])
      · exact .refl rfl rfl
    · rcases stepS2_cases hs with ⟨T, f, _, _, _, _, rfl⟩ | ⟨_, rfl⟩
      · by_cases hq : queueFull s.transport s.cfg.handle = true
        · rw [submit_full hq]
          exact .other [.subFull] (by simp [afterSubmit]) (by simp [afterSubmit]) (by simp [isTransportEvent]) (by simp)
        · rw [submit_accepted (by simpa using hq)]
          exact .submitted s.cfg.handle f T.W (by simpa using hq) rfl rfl
      · exact .refl rfl rfl
    · cases hs; unfold stepW1; split
      · exact .refl rfl rfl
      · split
        · exact .refl rfl rfl
        · rename_i cs hcs
          refine .awaited (awaitedIds s) (awaitAnswer cs) (by simp) (by simp) fun ha => ⟨cs, hcs, ?_⟩
          unfold awaitAnswer at ha
          split at ha
          · simpa using (by assumption : cs.all (·.ok) = true)
          · cases ha
    · cases hs
      exact .line (by simpa [linesIdleSync] using setLine_port s.cfg.pins .sync .high s) (by simp [linesIdleSync])
    · cases hs
      exact .line (by simpa [linesIdleLatch] using setLine_port s.cfg.pins .latch s.par.latchIdle s) (by simp [linesIdleLatch])
    · cases hs; unfold stepW2; split
      · exact .line (by simpa [syncDeassert] using setLine_port s.cfg.pins .sync .high s) (by simp [syncDeassert])
      · exact .refl rfl rfl
    · cases hs; unfold stepW3; split <;> exact .refl rfl rfl
    · cases hs; unfold stepC1; split <;> exact .refl rfl rfl
    · obtain ⟨T, _, hs⟩ := withTable_next hs
      cases hs
      refine .line ?_ ?_
      · have := pulseLine_port s.cfg.pins .latch T.tLatchHoldMin s
        unfold stepLatch latchPulse; simp only; split <;> simpa using this
      · unfold stepLatch latchPulse; simp only; split <;> simp
    · obtain ⟨T, _, hs⟩ := withTable_next hs
      cases hs
      unfold stepC2; split <;> exact .refl rfl rfl
    · cases hs; exact .other [.ret (opInFlight s) s.res] (by simp) (by simp) (by simp [isTransportEvent]) (by simp)
    · cases hs; exact .other [.ret (opInFlight s) (.err s.err)] (by simp) (by simp) (by simp [isTransportEvent]) (by simp)

theorem openNext_port {o : Opening} {l : OpenLine} {a : Bool × State} {s : State}
    (h : ∃ es, a.2.trace = s.trace ++ es ∧ (∀ e ∈ es, isTransportEvent e = false) ∧ es.length ≤ 1) (ht : a.2.transport = s.transport) :
    PortStep s (openNext o l a) := by
  exact .line (by simpa using h) (by simpa using ht)

theorem openStep_port {o : Opening} {s s' : State} (h : openStep o s = .next s') : PortStep s s' := by
  rcases openStep_cases h with ⟨r, v, l, rfl, _⟩ | ⟨T, _, _, rfl⟩ | ⟨_, rfl⟩ | ⟨_, rfl⟩
  · exact openNext_port (setLine_port _ _ _ _) (by simp)
  · exact openNext_port (openPulse_port _ _ _) (by simp)
  · exact .other [.ret .openOp .ok] (by simp) (by simp) (by simp [isTransportEvent]) (by simp)
  · exact .other [.ret .openOp (.err .lineSequencingFailed)] (by simp [refuseOp]) rfl (by simp [isTransportEvent]) (by simp)

theorem blockStep_port {s s' : State} (h : blockStep s = .next s') : PortStep s s' := by
  rcases blockStep_cases s with ⟨o, _, e⟩ | ⟨_, e⟩ <;> rw [e] at h
  · exact openStep_port h
  · exact engineStep_port h

theorem admission_port {op : HostOp} {m : Mode} {b : Bool} {ws : List RegisterWord} {l : Bool} {s s' : State}
    (h : admission op m b ws l s = .next s') : PortStep s s' := by
  rcases admission_cases h with ⟨e, _, rfl⟩ | ⟨_, _, _, _, _, _, _, _, rfl⟩
  · exact .other [.ret op (.err e)] (by simp [refuseOp]) rfl (by simp [isTransportEvent]) (by simp)
  · exact .refl rfl rfl

theorem exec_port {i : Instr} {s s' : State} (h : exec i s = .next s') : PortStep s s' := by
  cases i
  case hostOpen hd c =>
    rcases execOpen_cases h with ⟨_, rfl⟩ | ⟨T, _, _, _, _, ⟨_, rfl⟩ | ⟨_, rfl⟩⟩
    · exact .other [.ret .openOp (.err .transportBusy)] (by simp [refuseOp]) rfl (by simp [isTransportEvent]) (by simp)
    · exact .other [.ret .openOp (.err .missingPin)] (by simp [refuseOp]) rfl (by simp [isTransportEvent]) (by simp)
    · exact .refl rfl rfl
  case hostWrite => exact admission_port h
  case hostWriteBatch => exact admission_port h
  case hostRead => exact admission_port h
  all_goals
    simp only [exec, execRef32WriteOnly, execRef32WriteAndUpdate, execRef32UpdateOnly, execRef32SpanMode,
      execRef32PowerMode, execRef24WriteOnly, execRef24WriteAndUpdate, execRef24UpdateOnly] at h
    cases h
    exact .refl (by simp) (by simp)

theorem envStep_port {m : EnvMove} {s s' : State} (hs : envStep m s = .next s') : PortStep s s' := by
  cases m with
  | run => exact blockStep_port hs
  | perf id ok rx =>
    cases hs
    rcases perform_cases id ok rx s with e | ⟨x, hx, rfl, e⟩
    · rw [e]; exact .refl rfl rfl
    · exact .performed x ok rx hx (by simp [e]) (by simp [e])
  | expire b =>
    cases hs
    rcases waitExpires_cases b s with e | ⟨_, _, e⟩ | ⟨_, e⟩ <;> rw [e]
    · exact .refl rfl rfl
    · exact .awaited (awaitedIds s) .transportFailure (by simp) (by simp) (by simp)
    · exact .awaited (awaitedIds s) .timeout (by simp) (by simp) (by simp)

/-- Everything a step can do to the transport and to the trace (R41, R42, R43, R61). -/
theorem portStep_of_step {s s' : State} (hs : step s = .next s') : PortStep s s' := by
  rcases step_cases s with ⟨x, xs, _, e⟩ | ⟨_, e⟩
  · rw [e] at hs
    suffices PortStep { s with inbox := xs } s' by
      cases this with
      | other es a b c d => exact .other es a b c d
      | submitted h f n a b c => exact .submitted h f n a b c
      | awaited ids a b c d => exact .awaited ids a b c d
      | performed x ok rx a b c => exact .performed x ok rx a b c
    cases x with
    | port w =>
      simp only [deliver, present] at hs
      split at hs
      · exact exec_port hs
      · cases hs; exact .refl rfl rfl
      · cases hs; exact .refl rfl rfl
    | move m => exact envStep_port hs
    | reset => cases hs; exact .refl rfl rfl
  · rw [e] at hs
    have : PortStep { s with draws := s.draws + 1 } s' := envStep_port hs
    cases this with
      | other es a b c d => exact .other es a b c d
      | submitted h f n a b c => exact .submitted h f n a b c
      | awaited ids a b c d => exact .awaited ids a b c d
      | performed x ok rx a b c => exact .performed x ok rx a b c

/-- A step adds at most one event, so that a completion can fall between any two of them (R41, R55). -/
theorem step_adds_one_event {s s' : State} (hs : step s = .next s') :
    ∃ es, s'.trace = s.trace ++ es ∧ es.length ≤ 1 := by
  cases portStep_of_step hs with
  | other es a _ _ d => exact ⟨es, a, d⟩
  | submitted _ _ _ _ _ c => exact ⟨_, c, by simp⟩
  | awaited _ _ _ b _ => exact ⟨_, b, by simp⟩
  | performed _ _ _ _ _ c => exact ⟨_, c, by simp⟩

end Sys2Proof.Machine
end

