-- ==== Sys2Proof/Tests/Slice0.lean ====
section
/-! SUPPORT. The package's own tests: ill-formed terms that WellFormed refuses, words written out from the spec's
encodings, one step of each instruction, and for each statement with hypotheses a concrete case that meets them. The
expected values are those of the spec's rules, examples and vectors, which each test names. -/

namespace Sys2Proof.Tests

open Sys2Proof Sys2Proof.Machine

set_option Elab.async false

/-! ### Well-formed and ill-formed terms -/

/-- REF32 with durations that are numbers, so that a test can evaluate all of it. -/
def T32 : FamilyTable := ref32With 1 2

/-- REF24 likewise. -/
def T24 : FamilyTable := ref24With 3 4

/-- The parameters of the tests: `MAX_DEPTH` is 4, as in the spec's vectors (R5). -/
def par : Params := ⟨4, some 5, false, .high, [T32, T24]⟩

theorem test_reference_tables_wf : T32.wf = true ∧ T24.wf = true ∧ par.wf = true := by decide +kernel

theorem test_opaque_tables_wf : ref32.wf = true ∧ ref24.wf = true := by decide +kernel

theorem test_widths_refused :
    [{ T32 with W := 0 }, { T32 with W := 33 }, { T32 with cmdW := 0 }, { T32 with addrW := 0 },
      { T32 with dataW := 0 }].all (fun T => !T.widthsOk && !T.wf) = true := by decide +kernel

theorem test_outside_fields_refused :
    [{ T32 with dirPos := 32 }, { T32 with cmdLo := 29 }, { T32 with addrLo := 30 }, { T32 with dataLo := 17 },
      { T32 with modeLo := 29 }].all (fun T => !T.fieldsInside && !T.wf) = true := by decide +kernel

theorem test_overlaps_refused :
    [{ T32 with dirPos := 30 }, { T32 with dirPos := 26 }, { T32 with dirPos := 15 }, { T32 with dirPos := 19 },
      { T32 with cmdLo := 23 }, { T32 with cmdLo := 12 }, { T32 with cmdLo := 16 }, { T32 with addrLo := 13 },
      { T32 with addrLo := 16 }, { T32 with dataLo := 4 }].all (fun T => !T.fieldsDisjoint && !T.wf) = true := by
  decide +kernel

theorem test_codes_refused :
    [{ T32 with cmds := [⟨.writeOnly, 0, false⟩, ⟨.writeOnly, 1, false⟩] },
      { T32 with cmds := [⟨.writeOnly, 0, false⟩, ⟨.updateOnly, 0, false⟩] },
      { T32 with cmds := [⟨.writeOnly, 16, false⟩] }, { T32 with chans := [⟨.A, 0⟩, ⟨.A, 1⟩] },
      { T32 with chans := [⟨.A, 0⟩, ⟨.B, 0⟩] }, { T32 with chans := [⟨.A, 8⟩] }].all
      (fun T => !T.codesOk && !T.wf) = true := by decide +kernel

theorem test_rows_refused :
    [{ T32 with cmds := [] }, { T32 with chans := [] }, { T24 with cmds := [⟨.spanMode, 0, true⟩] },
      { T32 with mandatoryRoles := [.dout, .sync] }, { T32 with mandatoryRoles := [.clk, .sync] },
      { T32 with mandatoryRoles := [.clk, .dout] }].all (fun T => !T.rowsOk && !T.wf) = true := by decide +kernel

theorem test_params_refused :
    [{ par with maxDepth := 0 }, { par with families := [{ T32 with W := 0 }] }, { par with families := [T32, T32] }].all
      (fun p => !p.wf) = true := by decide +kernel

/-- Pins all assigned. -/
def pins : Pins := ⟨some 18, some 23, some 19, some 5, some 17, some 16⟩

/-- The operands of R180's example, DIN assigned too. -/
def openCfg : OpenCfg := ⟨10000000, 3, 0, pins⟩

/-- A well-formed instruction of each constructor. -/
def someInstrs : List Instr :=
  [.ref32WriteOnly .write .D 0xFFFF none, .ref32WriteAndUpdate .read .A 0xDEAD none, .ref32UpdateOnly .write .C 0 none,
    .ref32SpanMode .write .B 0 (some 5), .ref32PowerMode .read .D 0xFFFF (some 15), .ref24WriteOnly .write .C 0xFFF none,
    .ref24WriteAndUpdate .write .A 0xDEA none, .ref24UpdateOnly .read .B 0xABC none, .hostOpen 7 openCfg,
    .hostWrite ⟨.write, .writeAndUpdate, .H, 0xFFFFFFFF, some 0xFFFFFFFF⟩,
    .hostWriteBatch [⟨.read, .spanMode, .A, 1, some 2⟩, ⟨.write, .writeOnly, .B, 3, none⟩] true,
    .hostRead ⟨.read, .powerMode, .E, 4, some 0⟩]

/-- Witness of `DecodeGivesEveryInstructionBack`: every constructor has a well-formed term. -/
theorem test_instr_wf : someInstrs.all (fun i => i.wf) = true := by decide +kernel

theorem test_instr_round_trip : someInstrs.all (fun i => decode (encode i) == .instr i) = true := by decide +kernel

theorem test_frame_instr_refused :
    [Instr.ref32WriteOnly .write .A 0x10000 none, .ref32WriteOnly .write .E 0 none, .ref32WriteOnly .write .A 0 (some 0),
      .ref32WriteAndUpdate .write .H 0 none, .ref32UpdateOnly .write .A 0 (some 1), .ref32SpanMode .write .B 0 none,
      .ref32SpanMode .write .B 0 (some 16), .ref32PowerMode .write .A 0 none, .ref24WriteOnly .write .A 0x1000 none,
      .ref24WriteAndUpdate .write .D 0 none, .ref24UpdateOnly .write .A 0 (some 0)].all (fun i => !i.wf) = true := by
  decide +kernel

theorem test_host_instr_refused :
    [Instr.hostOpen (2 ^ 32) openCfg, .hostOpen 0 { openCfg with clockFreq := 2 ^ 32 },
      .hostOpen 0 { openCfg with pipelineDepth := 0 }, .hostOpen 0 { openCfg with pipelineDepth := 2 ^ 32 + 1 },
      .hostOpen 0 { openCfg with deviceFamily := 256 }, .hostOpen 0 { openCfg with pins := { pins with clk := some (2 ^ 32) } },
      .hostOpen 0 { openCfg with pins := { pins with dout := some (2 ^ 32) } },
      .hostOpen 0 { openCfg with pins := { pins with din := some (2 ^ 32) } },
      .hostOpen 0 { openCfg with pins := { pins with sync := some (2 ^ 32) } },
      .hostOpen 0 { openCfg with pins := { pins with latch := some (2 ^ 32) } },
      .hostOpen 0 { openCfg with pins := { pins with reset := some (2 ^ 32) } },
      .hostWrite ⟨.write, .writeOnly, .A, 2 ^ 32, none⟩, .hostWrite ⟨.write, .spanMode, .A, 0, some (2 ^ 32)⟩,
      .hostWriteBatch [⟨.write, .writeOnly, .A, 2 ^ 32, none⟩] false, .hostRead ⟨.read, .writeOnly, .A, 2 ^ 32, none⟩].all
      (fun i => !i.wf) = true := by decide +kernel

theorem test_endless_batch_refused (w : RegisterWord) (l : Bool) :
    (Instr.hostWriteBatch (List.replicate (2 ^ 32) w) l).wf = false := by
  simp only [Instr.wf, List.length_replicate]
  rfl

/-! ### Words written out from the encodings -/

/-- R77, each row, bit 31 first: `d cccc aaa 0000 mmmm x…x`. -/
theorem test_decode_ref32 :
    decodeTableWord 32 0b0_0000_011_0000_0000_1111111111111111 = some (.ref32WriteOnly .write .D 0xFFFF none) ∧
    decodeTableWord 32 0b0_0001_000_0000_0000_1101111010101101 = some (.ref32WriteAndUpdate .write .A 0xDEAD none) ∧
    decodeTableWord 32 0b1_0010_010_0000_0000_0000000000000001 = some (.ref32UpdateOnly .read .C 1 none) ∧
    decodeTableWord 32 0b0_0011_001_0000_0101_0000000000000000 = some (.ref32SpanMode .write .B 0 (some 5)) ∧
    decodeTableWord 32 0b1_0100_011_0000_1111_1000000000000000 = some (.ref32PowerMode .read .D 0x8000 (some 15)) := by
  decide +kernel

/-- R79, each row, bit 23 first: `d ccc aa 00 x…x 0000`. -/
theorem test_decode_ref24 :
    decodeTableWord 24 0b0_000_00_00_111111110000_0000 = some (.ref24WriteOnly .write .A 0xFF0 none) ∧
    decodeTableWord 24 0b0_001_01_00_110111101010_0000 = some (.ref24WriteAndUpdate .write .B 0xDEA none) ∧
    decodeTableWord 24 0b1_010_10_00_101010111100_0000 = some (.ref24UpdateOnly .read .C 0xABC none) := by decide +kernel

/-- R81: a reserved bit, an unassigned command, an unassigned channel, mode bits where none are taken. -/
theorem test_decode_refuses_frames :
    [0xFFFFFFFF, 0x0810DEAD, 0x0801DEAD, 0x28000000, 0x0C000000].all (fun w => (decodeTableWord 32 w).isNone) = true ∧
    [0x10DEA1, 0x11DEA0, 0x300000, 0x0C0000, 0xFFFFFF].all (fun w => (decodeTableWord 24 w).isNone) = true := by
  decide +kernel

/-- R85: each code with operands of zeros, and codes that select no operation. -/
theorem test_decode_host_codes :
    decodeTableWord 8 0b00000001 = some (.hostOpen 0 ⟨0, 1, 0, ⟨none, none, none, none, none, none⟩⟩) ∧
    decodeTableWord 8 0b00000010 = some (.hostWrite ⟨.write, .writeOnly, .A, 0, none⟩) ∧
    decodeTableWord 8 0b00000011 = some (.hostWriteBatch [] false) ∧
    decodeTableWord 8 0b00000100 = some (.hostRead ⟨.write, .writeOnly, .A, 0, none⟩) ∧
    decodeTableWord 8 0 = none ∧ decodeTableWord 8 5 = none ∧ decodeTableWord 8 255 = none := by decide +kernel

/-- R86: the enumeration codes of a word's operands, `R.PowerMode D, 0x12345678, mode=9`. -/
theorem test_decode_host_operands :
    decode (.host [4, 1, 4, 3, 0x78, 0x56, 0x34, 0x12, 1, 9, 0, 0, 0]) =
      .instr (.hostRead ⟨.read, .powerMode, .D, 0x12345678, some 9⟩) := by decide +kernel

/-- Assumptions 2 and 11: an absent option's bytes are not read; a direction 2 is a free value, and so is every byte of
an operand cut short. -/
theorem test_decode_unstated :
    decode (.host [2, 0, 0, 0, 9, 0, 0, 0, 0, 0xFF, 0xFF, 0xFF, 0xFF]) = .instr (.hostWrite (⟨.write, .writeOnly, .A, 9, none⟩)) ∧
    decode (.host [2, 2, 0, 0, 9, 0, 0, 0, 0, 0, 0, 0, 0]) =
      .instr (.hostWrite ⟨Config.unstatedDirection [2, 2, 0, 0, 9, 0, 0, 0, 0, 0, 0, 0, 0] 1, .writeOnly, .A, 9, none⟩) ∧
    byteAt [2, 0] 2 = Config.undrivenByte [2, 0] 2 := ⟨rfl, rfl, rfl⟩

/-! ### States -/

/-- A field of the state a step answers. -/
def after {α : Type} (o : Host.Outcome State Fault Refusal) (f : State → α) : Option α :=
  match o with
  | .next t => some (f t)
  | _ => none

/-- The machine after reset with the tests' parameters. -/
def closed (answers : List Bool) (inbox : List Input) : State :=
  { State.reset with
    par := par, frame := [0, 0, 0, 0], ids := [0, 0, 0, 0], transport := ⟨[], [], 0, [(0, 8)]⟩
    lineAnswers := answers, inbox := inbox }

/-- An OPEN of R180's example at one of its lines, while a transfer of an earlier session is still outstanding. -/
def openingAt (line : OpenLine) (answers : List Bool) (inbox : List Input) : State :=
  { closed answers inbox with
    opening := some ⟨0, openCfg, line⟩, transport := ⟨[⟨0, 0, frameBytes 32 5, 32⟩], [], 1, [(0, 8)]⟩ }

/-- A session of REF32 of depth 3, as R180's example leaves it. -/
def opened (answers : List Bool) (inbox : List Input) : State :=
  { closed answers inbox with
    sessionValid := true, cfg := ⟨0, pins, 0, 3, 10000000⟩, lineSync := .known .high, lineLatch := .known .high
    lineReset := .known .high }

/-- The REF32 word `W.WriteOnly`. -/
def word (c : Channel) (x : Nat) : RegisterWord := ⟨.write, .writeOnly, c, x, none⟩

/-- An outstanding transfer of the tests. -/
def transfer (id f : Nat) : Transfer := ⟨id, 0, frameBytes 32 f, 32⟩

/-- A batch of `W.WriteOnly A, 5` and `W.WriteOnly B, 6` with the latch asked for, one word submitted. -/
def submitting (depth : Nat) (inbox : List Input) : State :=
  { opened [] inbox with
    fsm := .submitting, pc := .s2, mode := .pipelined, n := 2, subIdx := 1, frame := [5, 0x01000006, 0, 0]
    latchReq := true, transport := ⟨[transfer 0 5], [], 1, [(0, depth)]⟩, trace := [.sub 0 5 32] }

/-- The batch waiting for both its transfers. -/
def waiting (maxWait : Option Nat) (answers : List Bool) (inbox : List Input) : State :=
  { opened answers inbox with
    par := { par with maxWait := maxWait }, fsm := .awaitingCompletion, pc := .w1, mode := .pipelined, n := 2
    subIdx := 2, frame := [5, 0x01000006, 0, 0], ids := [0, 1, 0, 0], latchReq := true
    transport := ⟨[transfer 0 5, transfer 1 0x01000006], [], 2, [(0, 8)]⟩
    trace := [.sub 0 5 32, .sub 1 0x01000006 32] }

/-- The batch when both transfers have completed, the second with `ok`. -/
def completed (ok : Bool) (inbox : List Input) : State :=
  { waiting none [] inbox with
    transport := ⟨[], [⟨0, true, frameBytes 32 0⟩, ⟨1, ok, frameBytes 32 0⟩], 2, [(0, 8)]⟩
    trace := [.sub 0 5 32, .sub 1 0x01000006 32, .perf 0 true, .perf 1 ok] }

/-- The batch about to pulse the latch. -/
def latching (answers : List Bool) (inbox : List Input) : State :=
  { waiting none answers inbox with
    fsm := .latching, pc := .latch, transport := ⟨[], [], 2, [(0, 8)]⟩
    trace := [.sub 0 5 32, .sub 1 0x01000006 32, .perf 0 true, .perf 1 true, .await [0, 1] .ok] }

/-- The batch about to end after its pulse. -/
def ending (inbox : List Input) : State :=
  { latching [] inbox with
    pc := .c3
    trace := [.sub 0 5 32, .sub 1 0x01000006 32, .perf 0 true, .perf 1 true, .await [0, 1] .ok, .pulse .latch 2 true] }

/-- The batch about to end after a transfer failed. -/
def failing (inbox : List Input) : State :=
  { latching [] inbox with
    fsm := .anyFailed, pc := .f1, failed := true, err := .batchPartialFailure
    trace := [.sub 0 5 32, .sub 1 0x01000006 32, .perf 0 true, .perf 1 false, .await [0, 1] .transportFailure] }

/-- A WRITE about to assert SYNC. -/
def writing (answers : List Bool) (inbox : List Input) : State :=
  { opened answers inbox with
    fsm := .submitting, pc := .s1, mode := .direct, n := 1, frame := [5, 0, 0, 0] }

/-! ### One step of each instruction -/

/-- R106's example: REF32 `W.WriteOnly B, 0x8000` is 01 00 80 00. -/
theorem test_ref32WriteOnly :
    after (step (State.reset.withFetchWord 32 0x01008000)) (·.codecOut) =
      some (.encoded ⟨.write, .writeOnly, .B, 0x8000, none⟩ [0x01, 0x00, 0x80, 0x00]) := by decide +kernel

/-- R107's example. -/
theorem test_ref32WriteAndUpdate :
    after (exec (.ref32WriteAndUpdate .write .A 0xDEAD none) State.reset) (·.codecOut) =
      some (.encoded ⟨.write, .writeAndUpdate, .A, 0xDEAD, none⟩ [0x08, 0x00, 0xDE, 0xAD]) := by decide +kernel

/-- R108's example. -/
theorem test_ref32UpdateOnly :
    after (exec (.ref32UpdateOnly .write .C 0 none) State.reset) (·.codecOut) =
      some (.encoded ⟨.write, .updateOnly, .C, 0, none⟩ [0x12, 0x00, 0x00, 0x00]) := by decide +kernel

/-- R109's example, and the refusal where the mode bits are missing. -/
theorem test_ref32SpanMode :
    after (exec (.ref32SpanMode .write .B 0 (some 5)) State.reset) (·.codecOut) =
      some (.encoded ⟨.write, .spanMode, .B, 0, some 5⟩ [0x19, 0x05, 0x00, 0x00]) ∧
    after (exec (.ref32SpanMode .write .B 0 none) State.reset) (·.codecOut) = some (.error .unsupportedField) := by
  decide +kernel

/-- R110's example. -/
theorem test_ref32PowerMode :
    after (exec (.ref32PowerMode .write .D 0 (some 15)) State.reset) (·.codecOut) =
      some (.encoded ⟨.write, .powerMode, .D, 0, some 15⟩ [0x23, 0x0F, 0x00, 0x00]) := by decide +kernel

/-- 95_test_vectors.md, REF24: `W.WriteOnly B, 0x800`. -/
theorem test_ref24WriteOnly :
    after (exec (.ref24WriteOnly .write .B 0x800 none) State.reset) (·.codecOut) =
      some (.encoded ⟨.write, .writeOnly, .B, 0x800, none⟩ [0x04, 0x80, 0x00]) := by decide +kernel

/-- 95_test_vectors.md, REF24: `W.WriteAndUpdate A, 0xDEA`. -/
theorem test_ref24WriteAndUpdate :
    after (step (State.reset.withFetchWord 24 0x10DEA0)) (·.codecOut) =
      some (.encoded ⟨.write, .writeAndUpdate, .A, 0xDEA, none⟩ [0x10, 0xDE, 0xA0]) := by decide +kernel

/-- 95_test_vectors.md, REF24: `R.UpdateOnly C, 0xABC`. -/
theorem test_ref24UpdateOnly :
    after (exec (.ref24UpdateOnly .read .C 0xABC none) State.reset) (·.codecOut) =
      some (.encoded ⟨.read, .updateOnly, .C, 0xABC, none⟩ [0xA8, 0xAB, 0xC0]) := by decide +kernel

/-- R180: the instruction's own step passes the checks O1 and O2; the first line drives SYNC. -/
theorem test_open :
    after (exec (.hostOpen 0 openCfg) (closed [true] [])) (fun t => (t.opening, t.trace)) =
      some (some ⟨0, openCfg, .sync⟩, []) ∧
    after (step (openingAt .sync [true] [.move .run])) (fun t => (t.opening, t.trace, t.lineSync)) =
      some (some ⟨0, openCfg, .latch⟩, [.line .sync .high true], .known .high) := by decide +kernel

/-- R180 O3, R185: the second line call fails, and OPEN returns at a line of its own; R184: O4 leaves a role without a line
`Unknown`. -/
theorem test_open_line_fails :
    after (step (openingAt .latch [false] [.move .run])) (fun t => (t.trace, t.lineLatch, t.opening)) =
      some ([.line .latch .high false], .unknown, some ⟨0, openCfg, .failed⟩) ∧
    after (step (openingAt .failed [] [.move .run])) (fun t => (t.trace, t.sessionValid, t.opening)) =
      some ([.ret .openOp (.err .lineSequencingFailed)], false, none) ∧
    after (step { closed [] [.move .run] with
        opening := some ⟨0, { openCfg with pins := { pins with latch := none } }, .done⟩, lineLatch := .known .high })
      (fun t => (t.trace, t.sessionValid, t.lineLatch)) = some ([.ret .openOp .ok], true, .unknown) := by decide +kernel

/-- R140, R143 A6: the frame 0x0800DEAD is loaded. -/
theorem test_write :
    after (exec (.hostWrite ⟨.write, .writeAndUpdate, .A, 0xDEAD, none⟩) (opened [] [])) (fun t => (t.frame, t.n, t.fsm)) =
      some ([0x0800DEAD, 0, 0, 0], 1, .submitting) := by decide +kernel

/-- R158: a WRITE presented while a batch is in flight. -/
theorem test_write_busy :
    after (exec (.hostWrite (word .A 1)) (waiting none [] [])) (fun t => (t.result, t.frame)) =
      some (.err .transportBusy, [5, 0x01000006, 0, 0]) := by decide +kernel

/-- R91, R141: the RGB batch's three frames. -/
theorem test_writeBatch :
    after (exec (writeRgb 0xFF00 0x8000 0) (opened [] [])) (fun t => (t.frame, t.n, t.latchReq, t.mode)) =
      some ([0x0000FF00, 0x01008000, 0x02000000, 0], 3, true, .pipelined) := by decide +kernel

/-- R142: one word that does not encode refuses the whole batch; R157: a batch of four at depth 3. -/
theorem test_writeBatch_refused :
    after (exec (.hostWriteBatch [word .A 1, word .E 2] true) (opened [] [])) (fun t => (t.result, t.fsm, t.n)) =
      some (.err .unsupportedField, .idle, 0) ∧
    after (exec (.hostWriteBatch [word .A 1, word .B 1, word .C 1, word .D 1] true) (opened [] [])) (·.result) =
      some (.err .queueFull) := by decide +kernel

/-- R155's example: the request frame of `R.WriteOnly A, 0`. -/
theorem test_read :
    after (exec (.hostRead ⟨.read, .writeOnly, .A, 0, none⟩) (opened [] [])) (fun t => (t.frame, t.rdback, t.latchReq)) =
      some ([0x80000000, 0, 0, 0], true, false) := by decide +kernel

/-- R143 A3: READ with DIN unassigned. -/
theorem test_read_without_din :
    after (exec (.hostRead ⟨.read, .writeOnly, .A, 0, none⟩)
      { opened [] [] with cfg := ⟨0, { pins with din := none }, 0, 3, 0⟩ }) (·.result) =
      some (.err .unsupportedField) := by decide +kernel

/-! ### Witnesses: the codec

Each theorem below meets all hypotheses of the statement it names, or of each of its clauses. -/

theorem witness_encodeFollowsTheTable_accepts :
    T32.wf = true ∧ ⟨.D, 3⟩ ∈ T32.chans ∧ ⟨.powerMode, 4, true⟩ ∈ T32.cmds ∧ 0xFFFF < 2 ^ T32.dataW ∧
      15 < 2 ^ T32.modeW := by decide +kernel

theorem witness_encodeFollowsTheTable_refuses :
    T32.wf = true ∧ ∀ a r, ¬ ((a : ChanRow) ∈ T32.chans ∧ a.chan = .A ∧ (r : CmdRow) ∈ T32.cmds ∧ r.cmd = .writeOnly ∧
      0x10000 < 2 ^ T32.dataW) :=
  ⟨by decide +kernel, fun _ _ h => absurd h.2.2.2.2 (by decide)⟩

/-- Of `EncodeProducesOnlyLegalFrames`, `EncodeIsInjective`, `DecodeUndoesEncode` and `EncodeUndoesDecode`. -/
theorem witness_codec :
    T24.wf = true ∧ representable T24 ⟨.read, .updateOnly, .C, 0xFFF, none⟩ = true ∧
    encodeWord T24 ⟨.read, .updateOnly, .C, 0xFFF, none⟩ = .ok [0xA8, 0xFF, 0xF0] ∧
    decodeWord T24 [0xA8, 0xFF, 0xF0] = .ok ⟨.read, .updateOnly, .C, 0xFFF, none⟩ :=
  by decide +kernel

theorem witness_decodeChecksTheLength : ([] : List Byte).length ≠ T32.L ∧ [0, 0, 0, 0, (0 : Byte)].length ≠ T32.L := by
  decide +kernel

/-- A family of one command, one channel and one data bit. -/
def T8 : FamilyTable :=
  { T24 with
    W := 8, dirPos := 7, cmdLo := 6, cmdW := 1, addrLo := 5, addrW := 1, dataLo := 0, dataW := 1
    cmds := [⟨.writeOnly, 0, false⟩], chans := [⟨.A, 0⟩] }

theorem witness_decodeRefusesForeignFrames_foreign :
    T8.wf = true ∧ [(0x02 : Byte)].length = T8.L ∧ ∀ w, encodeWord T8 w ≠ .ok [0x02] := by
  refine ⟨by decide +kernel, by decide +kernel, ?_⟩
  rintro ⟨d, c, h, x, m⟩ he
  have hr : representable T8 ⟨d, c, h, x, m⟩ = true := by
    by_contra hn
    simp [encodeWord, encodeValue, hn] at he
  cases c <;> cases h <;>
    first | (simp [representable, T8, FamilyTable.chanRow?, FamilyTable.cmdRow?] at hr; done) | skip
  have hx : x < 2 ∧ m = none := by
    cases m with
    | none =>
      simp [representable, T8, FamilyTable.chanRow?, FamilyTable.cmdRow?, modeAccepted] at hr
      exact ⟨by omega, rfl⟩
    | some v => simp [representable, T8, FamilyTable.chanRow?, FamilyTable.cmdRow?, modeAccepted] at hr
  obtain ⟨hx, rfl⟩ := hx
  interval_cases x <;> cases d <;> exact absurd he (by decide +kernel)

/-- The four cases the rule lists: bit 20, the command code 5, the channel code 4, mode bits under WriteOnly. -/
theorem witness_decodeRefusesForeignFrames_cases :
    T32.wf = true ∧ T32.isReserved 20 = true ∧ (frameOfBytes [0x08, 0x10, 0xDE, 0xAD]).testBit 20 = true ∧
    (∀ r ∈ T32.cmds, r.code ≠ fieldOf (frameOfBytes [0x28, 0, 0, 0]) T32.cmdLo T32.cmdW) ∧
    (∀ a ∈ T32.chans, a.code ≠ fieldOf (frameOfBytes [0x0C, 0, 0, 0]) T32.addrLo T32.addrW) ∧
    (⟨.writeOnly, 0, false⟩ ∈ T32.cmds ∧ 0 = fieldOf (frameOfBytes [0x00, 0x0F, 0, 0]) T32.cmdLo T32.cmdW ∧
      fieldOf (frameOfBytes [0x00, 0x0F, 0, 0]) T32.modeLo T32.modeW ≠ 0) := by decide +kernel

/-- Of `Ref32OpcodeMap`, the highest frame it accepts in each mode form. -/
theorem witness_ref32OpcodeMap :
    0xA30FFFFF < 2 ^ 32 ∧ decodeWord ref32 (frameBytes 32 0xA30FFFFF) = .ok ⟨.read, .powerMode, .D, 0xFFFF, some 15⟩ ∧
    decodeWord ref32 (frameBytes 32 0x9300FFFF) = .ok ⟨.read, .updateOnly, .D, 0xFFFF, none⟩ :=
  by decide +kernel

theorem witness_ref24OpcodeMap :
    0xA8FFF0 < 2 ^ 24 ∧ decodeWord ref24 (frameBytes 24 0xA8FFF0) = .ok ⟨.read, .updateOnly, .C, 0xFFF, none⟩ :=
  by decide +kernel

/-- Of `FrameBytesMostSignificantFirst` and `WireOrderIsMostSignificantFirst`. -/
theorem witness_frameBytes : 24 % 8 = 0 ∧ 2 < 24 / 8 ∧ 0xFFFFFF < 2 ^ 24 := by decide

/-! ### Witnesses: presentations and the frame commands -/

theorem witness_unassignedCode :
    (0xFF : Byte).toNat ∉ [1, 2, 3, 4] ∧ (opened [] [.port (.host [0xFF])]).inbox = [.port (.host [0xFF])] :=
  ⟨by decide, rfl⟩

theorem witness_stepRuns :
    (opened [] [.port (encode (.hostWrite (word .A 5)))]).inbox = [.port (encode (.hostWrite (word .A 5)))] ∧
    decode (encode (.hostWrite (word .A 5))) = .instr (.hostWrite (word .A 5)) ∧
    decodeTableWord 32 0x0800DEAD = some (.ref32WriteAndUpdate .write .A 0xDEAD none) :=
  ⟨rfl, by decide +kernel, by decide +kernel⟩

/-- Of `Ref32PlainCommandsPack`, `Ref32ModeCommandsPack` and `Ref24CommandsPack`. -/
theorem witness_pack :
    (Channel.D, 3) ∈ [(Channel.A, 0), (.B, 1), (.C, 2), (.D, 3)] ∧ 0xFFFF < 2 ^ 16 ∧ 15 < 2 ^ 4 ∧
    (Channel.C, 2) ∈ [(Channel.A, 0), (.B, 1), (.C, 2)] ∧ 0xFFF < 2 ^ 12 := by decide

/-- Each way a word can be refused, for the three groups of `FrameCommandsRefuseBadWords`. -/
theorem witness_frameCommandsRefuse :
    ¬ (Channel.E ∈ [Channel.A, .B, .C, .D] ∧ 0 < 2 ^ 16 ∧ (none : Option Nat) = none) ∧
    ¬ (Channel.A ∈ [Channel.A, .B, .C, .D] ∧ 2 ^ 16 < 2 ^ 16 ∧ (none : Option Nat) = none) ∧
    ¬ (Channel.A ∈ [Channel.A, .B, .C, .D] ∧ 0 < 2 ^ 16 ∧ ∃ v, (none : Option Nat) = some v ∧ v < 2 ^ 4) ∧
    ¬ (Channel.A ∈ [Channel.A, .B, .C, .D] ∧ 0 < 2 ^ 16 ∧ ∃ v, some 16 = some v ∧ v < 2 ^ 4) ∧
    ¬ (Channel.D ∈ [Channel.A, .B, .C] ∧ 0 < 2 ^ 12 ∧ (none : Option Nat) = none) ∧
    ¬ (Channel.A ∈ [Channel.A, .B, .C] ∧ 0 < 2 ^ 12 ∧ some 0 = none) := by simp

/-! ### Witnesses: OPEN and admission -/

theorem witness_secondOpen : (opened [] []).sessionValid = true ∧ (waiting none [] []).sessionValid = true := ⟨rfl, rfl⟩

/-- Of `MissingPinStopsOpen` (its first clause), a role missing and none missing, at the boundary depths 4 and 1, and of
the first clause of `OpenAnswersAndTouchesNoEngine`. -/
theorem witness_missingPin :
    (closed [] []).sessionValid = false ∧ (closed [] []).opening = none ∧ (closed [] []).par.table? 1 = some T24 ∧
    1 ≤ (closed [] []).par.maxDepth ∧
    (∃ r ∈ T24.mandatoryRoles, ({ pins with latch := none } : Pins).get r = none) ∧
    (∀ r ∈ T24.mandatoryRoles, pins.get r ≠ none) ∧
    (∃ t, exec (.hostOpen 0 { openCfg with deviceFamily := 1, pipelineDepth := 4 }) (closed [true] []) = .next t) ∧
    (openingAt .pulse [] []).opening ≠ none :=
  ⟨rfl, rfl, rfl, by decide, by decide, by decide, ⟨_, rfl⟩, by decide⟩

theorem witness_openPowersUp :
    let s := closed [true, true, true, true] (runs 5 ++ [])
    s.sessionValid = false ∧ s.opening = none ∧ s.par.table? openCfg.deviceFamily = some T32 ∧
    1 ≤ openCfg.pipelineDepth ∧ openCfg.pipelineDepth ≤ s.par.maxDepth ∧
    (∀ r ∈ T32.mandatoryRoles, openCfg.pins.get r ≠ none) ∧
    s.lineAnswers = List.replicate (openCalls T32 openCfg.pins par).length true ++ [] :=
  ⟨rfl, rfl, rfl, by decide, by decide, by decide, by decide +kernel⟩

/-- The last call of the sequence fails; the first does (with the other hypotheses of `witness_openPowersUp`). -/
theorem witness_openStops (answers : List Bool) :
    let s := closed answers (runs 5 ++ [])
    s.sessionValid = false ∧ s.opening = none ∧ s.par.table? openCfg.deviceFamily = some T32 ∧
    (openCalls T32 openCfg.pins par)[3]? = some (.pulse .reset 1 true) ∧
    [true, true, true, false] = List.replicate 3 true ++ [false] ∧
    (openCalls T32 openCfg.pins par)[0]? = some (.line .sync .high true) ∧
    [false] = List.replicate 0 true ++ [false] := ⟨rfl, rfl, rfl, rfl, rfl, rfl, rfl⟩

theorem witness_inexpressibleOpen :
    (closed [] []).sessionValid = false ∧ (closed [] []).opening = none ∧ (closed [] []).par.table? 2 = none ∧
    (closed [] []).par.maxDepth < 5 := by decide +kernel

/-- Of `AdmissionIsOneAtomicStep`, `OperationsAreAdmitted` and `LongBatchIsRefused` (whose `Inv` is `inv_opened`). -/
theorem witness_admission :
    (opened [] []).sessionValid = true ∧ (opened [] []).fsm = .idle ∧ sessionTable? (opened [] []) = some T32 ∧
    encodeValue T32 (word .B 6) = .ok 0x01000006 ∧ [word .A 5, word .B 6].length ≤ (opened [] []).cfg.depth ∧
    [word .A 5, word .B 6].map (encodeValue T32) = [5, 0x01000006].map .ok ∧ T32.bidirectional = true ∧
    (opened [] []).cfg.pins.din ≠ none ∧ (opened [] []).cfg.depth < (List.replicate 4 (word .A 1)).length :=
  ⟨rfl, rfl, rfl, rfl, by decide, rfl, rfl, by decide, by decide⟩

/-! ### Witnesses: the invariants -/

/-- The clauses of `FlightOk` that name no table entry. -/
abbrev FlightFacts (s : State) : Prop :=
  s.sessionValid = true ∧ (s.subIdx ≤ s.n ∧ s.n ≤ s.par.maxDepth) ∧ (s.mode = .direct → s.n = 1) ∧
  (s.mode = .pipelined → s.n ≤ s.cfg.depth ∧ s.rdback = false) ∧ (s.rdback = true → s.latchReq = false) ∧
  (s.mode = .direct → s.rdback = false → s.latchReq = s.par.directUpdate) ∧
  (s.pc = .s1 → s.subIdx = 0 ∧ s.failed = false) ∧
  (s.fsm ≠ .submitting → s.failed = false ∨ s.fsm = .latching → s.subIdx = s.n) ∧
  (s.pc = .w1Sync ∨ s.pc = .w1Latch → s.failed = true) ∧
  (s.fsm = .allConfirmed ∨ s.pc = .latch → s.failed = false) ∧ (s.fsm = .latching → s.latchReq = true) ∧
  (s.fsm = .allConfirmed → s.pc ≠ .c1 → s.latchReq = false) ∧ (s.fsm = .anyFailed → s.failed = true)

/-- The clauses of `FlightOk` on `ERR` and the local result. -/
abbrev ResultFacts (s : State) : Prop :=
  (s.pc = .latch ∨ (s.fsm = .allConfirmed ∧ s.pc = .c2) → s.res = .ok) ∧
  (s.fsm = .latching → s.pc = .c2 ∨ s.pc = .c3 → (s.failed = false ∧ s.res = .ok) ∨
    (s.failed = true ∧ s.err = .lineSequencingFailed ∧ s.res = .err .lineSequencingFailed)) ∧
  (s.failed = true → isEngineError s.mode s.err = true) ∧ s.fsm ≠ .allConfirmed

/-- The clauses of the invariant that name no table entry, or name it where it is given, with all lines assigned. -/
abbrev InvFacts (T : FamilyTable) (s : State) : Prop :=
  s.par.wf = true ∧ s.frame.length = s.par.maxDepth ∧ s.ids.length = s.par.maxDepth ∧ pcFits s.fsm s.pc = true ∧
  (pinMissing T s.cfg.pins = false ∧ 1 ≤ s.cfg.depth ∧ s.cfg.depth ≤ s.par.maxDepth) ∧
  (∀ f ∈ s.frame.take s.n, f < 2 ^ T.W) ∧
  (s.transport.outstanding.map (·.id) ++ s.transport.completions.map (·.id)).Nodup ∧
  (∀ id ∈ s.transport.outstanding.map (·.id) ++ s.transport.completions.map (·.id), id < s.transport.nextId) ∧
  (beforeAwait s.pc = true → ∀ id ∈ awaitedIds s, (∃ x ∈ s.transport.outstanding, x.id = id ∧ x.nbits = T.W) ∨
    (∃ c ∈ s.transport.completions, c.id = id ∧ c.rx.length = T.L)) ∧ s.rdback = false ∧ s.opening = none ∧
  s.cfg.pins = pins

theorem inv_of {s : State} {T : FamilyTable} (hT : sessionTable? s = some T) (h : InvFacts T s)
    (a6 : s.fsm ≠ .idle → FlightFacts s) (a14 : s.fsm ≠ .idle → ResultFacts s) : Inv s := by
  obtain ⟨a1, a2, a3, a4, a5, a7, a8, a9, a10, a11, a12, a13⟩ := h
  refine ⟨a1, a2, a3, a4, fun _ => ⟨by simp [hT], fun T' h => ?_, a5.2⟩, fun o h => ?_, fun _ r h => ?_, fun hne => ?_,
    ⟨a8, a9⟩, fun _ hb T' h id hid => ?_, fun _ _ h => ?_⟩
  · rw [hT] at h; cases h; exact a5.1
  · rw [a12] at h; cases h
  · rw [a13] at h; cases r <;> cases h
  · obtain ⟨b1, b2, b3, b4, b5, b6, b7, b8, b9, b10, b11, b12, b13⟩ := a6 hne
    obtain ⟨b14, b15, b16, b17⟩ := a14 hne
    exact ⟨b1, b2, b3, b4, b5, b6, fun T' h => by rw [hT] at h; cases h; exact a7, b7, b8, b9, b10, b11, b12, b13, b14,
      b15, b16, fun h => absurd h b17⟩
  · rw [hT] at h; cases h; exact a10 hb id hid
  · rw [a11] at h; cases h

/-- The inbox and the driver's answers are not read by the invariant. -/
theorem inv_with {s : State} (h : Inv s) (a : List Bool) (i : List Input) :
    Inv { s with lineAnswers := a, inbox := i } :=
  h.same ⟨rfl, rfl, rfl, rfl, rfl, rfl, rfl, rfl, rfl, rfl, rfl, rfl, rfl, rfl, rfl, rfl, rfl⟩ rfl (by rintro ⟨⟩ <;> rfl)

theorem inv_opened (a : List Bool) (i : List Input) : Inv (opened a i) :=
  inv_with (inv_of (s := opened [] []) (T := T32) rfl (by decide +kernel) (by decide +kernel)
    (by decide +kernel)) a i

theorem inv_submitting (d : Nat) (i : List Input) (hd : d = 8 ∨ d = 1) : Inv (submitting d i) := by
  rcases hd with rfl | rfl
  · exact inv_with (inv_of (s := submitting 8 []) (T := T32) rfl (by decide +kernel) (by decide +kernel)
    (by decide +kernel)) [] i
  · exact inv_with (inv_of (s := submitting 1 []) (T := T32) rfl (by decide +kernel) (by decide +kernel)
    (by decide +kernel)) [] i

theorem inv_waiting (a : List Bool) (i : List Input) : Inv (waiting none a i) :=
  inv_with (inv_of (s := waiting none [] []) (T := T32) rfl (by decide +kernel) (by decide +kernel)
    (by decide +kernel)) a i

theorem inv_waiting_some (a : List Bool) (i : List Input) : Inv (waiting (some 5) a i) :=
  inv_with (inv_of (s := waiting (some 5) [] []) (T := T32) rfl (by decide +kernel) (by decide +kernel)
    (by decide +kernel)) a i

theorem inv_completed (ok : Bool) (i : List Input) : Inv (completed ok i) := by
  cases ok
  · exact inv_with (inv_of (s := completed false []) (T := T32) rfl (by decide +kernel) (by decide +kernel)
    (by decide +kernel)) [] i
  · exact inv_with (inv_of (s := completed true []) (T := T32) rfl (by decide +kernel) (by decide +kernel)
    (by decide +kernel)) [] i

theorem inv_latching (a : List Bool) (i : List Input) : Inv (latching a i) :=
  inv_with (inv_of (s := latching [] []) (T := T32) rfl (by decide +kernel) (by decide +kernel)
    (by decide +kernel)) a i

theorem inv_ending (i : List Input) : Inv (ending i) :=
  inv_with (inv_of (s := ending []) (T := T32) rfl (by decide +kernel) (by decide +kernel)
    (by decide +kernel)) [] i

theorem inv_failing (i : List Input) : Inv (failing i) :=
  inv_with (inv_of (s := failing []) (T := T32) rfl (by decide +kernel) (by decide +kernel)
    (by decide +kernel)) [] i

theorem inv_writing (a : List Bool) (i : List Input) : Inv (writing a i) :=
  inv_with (inv_of (s := writing [] []) (T := T32) rfl (by decide +kernel) (by decide +kernel)
    (by decide +kernel)) a i

/-- Without a session and idle, the invariant is about the OPEN in progress and the transport. -/
theorem inv_closed {s : State} (hv : s.sessionValid = false) (hi : s.fsm = .idle) (hp : s.par = par)
    (hl : s.frame.length = 4 ∧ s.ids.length = 4 ∧ s.pc = .idle)
    (ho : s.opening = none ∨ ∃ l, s.opening = some ⟨0, openCfg, l⟩) (ht : TransportOk s.transport) : Inv s := by
  refine ⟨by rw [hp]; decide +kernel, by rw [hp]; exact hl.1, by rw [hp]; exact hl.2.1, by rw [hi, hl.2.2]; rfl,
    fun h => by simp [hv] at h, fun o h => ?_, fun h => by simp [hv] at h, fun h => absurd hi h, ht,
    fun h => absurd hi h, fun h => absurd hi h⟩
  rcases ho with ho | ⟨l, ho⟩
  · rw [ho] at h; cases h
  · rw [ho] at h; cases h
    refine ⟨hv, by rw [hp]; rfl, fun T h => ?_, by rw [hp]; exact (by decide : 1 ≤ 3 ∧ 3 ≤ 4)⟩
    rw [hp] at h
    have : some T32 = some T := h
    cases this; rfl

theorem inv_openingAt (l : OpenLine) (a : List Bool) (i : List Input) : Inv (openingAt l a i) :=
  inv_closed rfl rfl rfl ⟨rfl, rfl, rfl⟩ (.inr ⟨l, rfl⟩)
    ⟨by show [0].Nodup; decide, by show ∀ id ∈ [0], id < 1; decide⟩

theorem inv_closed' (a : List Bool) (i : List Input) : Inv (closed a i) :=
  inv_closed rfl rfl rfl ⟨rfl, rfl, rfl⟩ (.inl rfl) ⟨by show [].Nodup; decide, by show ∀ id ∈ [], id < 0; decide⟩

/-- The answers an OPEN ends with over a step, for the second clauses of `MissingPinStopsOpen` and
`NoSessionExactlyWithoutSession`. -/
theorem witness_openAnswers :
    let i := Instr.hostOpen 0 { openCfg with pins := { pins with sync := none } }
    (Inv (closed [] [.port (encode i)]) ∧ ∃ t, step (closed [] [.port (encode i)]) = .next t ∧
      t.trace = (closed [] []).trace ++ [.ret .openOp (.err .missingPin)]) ∧
    (Inv (closed [] [.port (encode (.hostRead (word .A 1)))]) ∧
      ∃ t, step (closed [] [.port (encode (.hostRead (word .A 1)))]) = .next t ∧
        t.trace = (closed [] []).trace ++ [.ret .readOp (.err .noSession)]) :=
  ⟨⟨inv_closed' _ _, _, rfl, rfl⟩, inv_closed' _ _, _, rfl, rfl⟩

/-- Of the second clause of `OpenAnswersAndTouchesNoEngine`: a transfer performed between a line call that fails
and OPEN's return. -/
theorem witness_openInProgress :
    let moves : List EnvMove := [.run, .perf 0 true 7, .run, .run, .expire false, .run, .run]
    let s := openingAt .sync [false] (moves.map .move ++ [])
    Inv s ∧ s.opening = some ⟨0, openCfg, .sync⟩ ∧ moves.count .run = 5 := ⟨inv_openingAt _ _ _, rfl, by decide⟩

/-! ### Witnesses: the engine's steps -/

/-- Of `BusyBlockRefusesOperations` and `InvariantRulesOutFaults`. -/
theorem witness_busy : Inv (waiting none [] []) ∧ (waiting none [] []).fsm ≠ .idle := ⟨inv_waiting _ _, by decide⟩

theorem witness_longBatch :
    Inv (opened [] []) ∧ (opened [] []).sessionValid = true ∧ (opened [] []).fsm = .idle ∧
    (opened [] []).cfg.depth < (List.replicate 4 (word .A 1)).length := ⟨inv_opened _ _, rfl, rfl, by decide⟩

/-- Both answers of the transport: depth 8 has room, depth 1 has none. -/
theorem witness_engineSubmits (d : Nat) (hd : d = 8 ∨ d = 1) :
    let s := submitting d [.move .run]
    Inv s ∧ s.inbox = [.move .run] ∧ s.pc = .s2 ∧ s.subIdx < s.n ∧ s.failed = false ∧ sessionTable? s = some T32 ∧
    s.frame[s.subIdx]? = some 0x01000006 ∧
    (d = 8 → outstandingOf s.transport s.cfg.handle < queueDepth s.transport s.cfg.handle) ∧
    (d = 1 → queueDepth s.transport s.cfg.handle ≤ outstandingOf s.transport s.cfg.handle) := by
  refine ⟨inv_submitting d _ hd, rfl, rfl, ?_, rfl, rfl, rfl, ?_, ?_⟩
  · show 1 < 2; decide
  · rintro rfl; decide
  · rintro rfl; decide

theorem witness_awaitAnswers (ok : Bool) :
    let s := completed ok [.move .run]
    Inv s ∧ s.inbox = [.move .run] ∧ s.pc = .w1 ∧ s.subIdx ≠ 0 ∧
    completionsOf? s.transport (awaitedIds s) = some [⟨0, true, frameBytes 32 0⟩, ⟨1, ok, frameBytes 32 0⟩] :=
  ⟨inv_completed ok _, rfl, rfl, by show 2 ≠ 0; decide, rfl⟩

theorem witness_engineWaits :
    let moves : List EnvMove := [.run, .perf 0 true 7, .expire true, .run]
    let s := waiting none [] (moves.map .move)
    Waiting s ∧ s.par.maxWait = none ∧ 1 ∈ awaitedIds s ∧ completionOf? s.transport 1 = none ∧
    (∀ ok rx, EnvMove.perf 1 ok rx ∉ moves) ∧ s.inbox = moves.map .move ++ [] ∧ Inv s :=
  ⟨⟨rfl, rfl, by show 2 ≠ 0; decide, rfl⟩, rfl, by show 1 ∈ [0, 1]; decide, rfl, by simp, rfl, inv_waiting _ _⟩

theorem witness_timeout :
    let s := waiting (some 5) [true, false] (.move (.expire false) :: runs 2)
    Inv s ∧ mayExpire s = true ∧ s.lineAnswers = [true, false] ∧ s.inbox = .move (.expire false) :: runs 2 ++ [] :=
  ⟨inv_waiting_some _ _, rfl, rfl, rfl⟩

/-- The batch waiting for its first transfer when the second has failed. -/
def halfFailed (inbox : List Input) : State :=
  { waiting (some 5) [] inbox with
    transport := ⟨[transfer 0 5], [⟨1, false, frameBytes 32 0⟩], 2, [(0, 8)]⟩
    trace := [.sub 0 5 32, .sub 1 0x01000006 32, .perf 1 false] }

/-- Of the second clause of `TimeoutIdlesTheLines`. -/
theorem witness_earlyFailure :
    let s := halfFailed [.move (.expire true)]
    Inv s ∧ mayExpire s = true ∧ anyCompletedFailed s.transport (awaitedIds s) = true ∧
    s.inbox = [.move (.expire true)] :=
  ⟨inv_with (inv_of (s := halfFailed []) (T := T32) rfl (by decide +kernel) (by decide +kernel)
    (by decide +kernel)) [] _, rfl, rfl, rfl⟩

/-- The batch after a failed wait, its error recorded. -/
def afterWait (inbox : List Input) : State := { failing inbox with fsm := .awaitingCompletion, pc := .w3 }

theorem inv_afterWait (i : List Input) : Inv (afterWait i) :=
  inv_with (inv_of (s := afterWait []) (T := T32) rfl (by decide +kernel) (by decide +kernel)
    (by decide +kernel)) [] i

/-- A WRITE about to deassert SYNC. -/
def deasserting (answers : List Bool) (inbox : List Input) : State :=
  { writing answers inbox with fsm := .awaitingCompletion, pc := .w2, subIdx := 1 }

theorem inv_deasserting (a : List Bool) (i : List Input) : Inv (deasserting a i) :=
  inv_with (inv_of (s := deasserting [] []) (T := T32) rfl (by decide +kernel) (by decide +kernel)
    (by decide +kernel)) a i

/-- Of `FailedLineCallIsRecorded`: each of its three lines. -/
theorem witness_failedLineCall (a : Bool) :
    let i : List Input := [.move .run]
    (Inv (writing [a] i) ∧ sessionTable? (writing [a] i) = some T32 ∧ (writing [a] i).lineAnswers = [a] ∧
      (writing [a] i).inbox = i ∧ (writing [a] i).pc = .s1 ∧ (writing [a] i).mode = .direct) ∧
    (Inv (deasserting [a] i) ∧ sessionTable? (deasserting [a] i) = some T32 ∧ (deasserting [a] i).lineAnswers = [a] ∧
      (deasserting [a] i).inbox = i ∧ (deasserting [a] i).pc = .w2 ∧ (deasserting [a] i).mode = .direct) ∧
    (Inv (latching [a] i) ∧ sessionTable? (latching [a] i) = some T32 ∧ (latching [a] i).lineAnswers = [a] ∧
      (latching [a] i).inbox = i ∧ (latching [a] i).pc = .latch ∧ (latching [a] i).cfg.pins.latch ≠ none) :=
  ⟨⟨inv_writing _ _, rfl, rfl, rfl, rfl, rfl⟩, ⟨inv_deasserting _ _, rfl, rfl, rfl, rfl, rfl⟩,
    inv_latching _ _, rfl, rfl, rfl, rfl, by show some 17 ≠ none; decide⟩

/-- 95_test_vectors.md, E3 and E4: a failed SYNC_ASSERT and a failed SYNC_DEASSERT record `LineSequencingFailed`. -/
theorem test_write_line_fails :
    after (step (writing [false] [.move .run])) (fun t => (t.failed, t.err, t.lineSync, t.trace)) =
      some (true, .lineSequencingFailed, .unknown, [.line .sync .low false]) ∧
    after (step (deasserting [false] [.move .run])) (fun t => (t.failed, t.err, t.lineSync, t.trace)) =
      some (true, .lineSequencingFailed, .unknown, [.line .sync .high false]) := by decide +kernel

/-- An error recorded already, and none recorded before or after. -/
theorem witness_firstErrorWins :
    (Inv (afterWait [.move .run]) ∧ (afterWait [.move .run]).fsm ≠ .idle ∧ (afterWait [.move .run]).failed = true ∧
      ∃ t, step (afterWait [.move .run]) = .next t ∧ t.fsm ≠ .idle) ∧
    (Inv (submitting 8 [.move .run]) ∧ (submitting 8 [.move .run]).failed = false ∧
      ∃ t, step (submitting 8 [.move .run]) = .next t ∧ t.fsm ≠ .idle ∧ t.failed = false) :=
  ⟨⟨inv_afterWait _, by decide, rfl, _, rfl, by decide⟩, inv_submitting 8 _ (.inl rfl), rfl, _, rfl, by decide, rfl⟩

/-- Of `FsmFollowsTheRelation`, `LineRegistersFollowTheTrace` and `RegisterInvariantIsKept`. -/
theorem witness_step :
    Inv (writing [true] [.move .run]) ∧ (writing [true] [.move .run]).inbox.head? ≠ some .reset ∧
    ∃ t, step (writing [true] [.move .run]) = .next t ∧ t.pc = .s2 := ⟨inv_writing _ _, by decide, _, rfl, rfl⟩

theorem witness_latchPulsed :
    Inv (latching [true] [.move .run]) ∧ ∃ t, step (latching [true] [.move .run]) = .next t ∧
      latchPulses t.trace ≠ latchPulses (latching [true] [.move .run]).trace :=
  ⟨inv_latching _ _, _, rfl, by decide⟩

/-! ### Witnesses: the laws of an operation -/

theorem opInv_ending (i : List Input) : OpInv (ending i) := fun _ =>
  { start := by show 0 ≤ 6; decide
    frames := rfl
    transfers := rfl
    success := fun _ T h => by
      have : some T32 = some T := h
      cases this; rfl
    performed := fun _ _ _ => ⟨[.sub 0 5 32, .sub 1 0x01000006 32, .perf 0 true, .perf 1 true],
      [.pulse .latch 2 true], rfl, by show ∀ id ∈ [0, 1], _; decide⟩
    failure := fun h => absurd (.inl rfl) h
    noReset := rfl }

theorem opInv_failing (i : List Input) : OpInv (failing i) := fun _ =>
  { start := by show 0 ≤ 5; decide
    frames := rfl
    transfers := rfl
    success := fun h => by rcases h with h | h <;> cases h
    performed := fun h => by rcases h with h | h <;> cases h
    failure := fun _ => rfl
    noReset := rfl }

theorem perfInv_ending (i : List Input) : PerfInv (ending i) where
  once := fun id => by
    by_cases h0 : id = 0
    · subst h0; rfl
    · by_cases h1 : id = 1
      · subst h1; rfl
      · have : perfCount id (ending i).trace = 0 := by
          simp [perfCount, ending, isPerfOf, Ne.symm h0, Ne.symm h1]
        omega
  pending := fun x h => by cases h
  unborn := fun id h => by
    have h2 : 2 ≤ id := h
    have h0 : 0 ≠ id := by omega
    have h1 : 1 ≠ id := by omega
    simp [perfCount, ending, isPerfOf, h0, h1]
  held := fun c h => by cases h

/-- Of `LatchCountLaw` (its first clause, with a latch pulse and without), `LatchFollowsTheLastCompletion` and
`DeliveryLaw` (with `inv_ending`, `opInv_ending` and `perfInv_ending`). -/
theorem witness_ending :
    sessionTable? (ending [.move .run]) = some T32 ∧ (ending [.move .run]).mode = .pipelined ∧
    (ending [.move .run]).latchReq = true ∧ (ending [.move .run]).cfg.pins.latch ≠ none ∧
    ∃ t, OpEnds (ending [.move .run]) t ∧ t.result = .ok :=
  ⟨rfl, rfl, rfl, by decide, _, ⟨by decide, rfl, rfl, rfl⟩, rfl⟩

/-- Of `FailedOperationIsNeverLatched` (with `inv_failing` and `opInv_failing`). -/
theorem witness_failing :
    (failing [.move .run]).fsm ≠ .latching ∧
    ∃ t, OpEnds (failing [.move .run]) t ∧ t.result = .err .batchPartialFailure :=
  ⟨by decide, _, ⟨by decide, rfl, rfl, rfl⟩, rfl⟩

/-- The clauses of `LatchCountLaw` and `DeliveryLaw` on admission and on the steps of an operation. -/
theorem witness_recorded :
    (∃ t, (opened [] []).fsm = .idle ∧ sessionTable? (opened [] []) = some T32 ∧
      exec (.hostWriteBatch [word .A 5, word .B 6] true) (opened [] []) = .next t ∧ t.fsm = .submitting) ∧
    (∃ t, step (writing [true] [.move .run]) = .next t ∧ (writing [true] [.move .run]).fsm ≠ .idle ∧ t.fsm ≠ .idle) :=
  ⟨⟨_, rfl, rfl, rfl, rfl⟩, _, rfl, by decide, by decide⟩

/-! ### Witnesses: whole operations -/

/-- Of `DirectWriteRuns` and, with READ's presentation, `ReadReturnsTheDecodedBytes`. -/
theorem witness_directRuns (i : Instr) :
    let s := opened [true, true, true] (.port (encode i) :: runs 3 ++ .move (.perf 0 true 0x1234) :: runs 6 ++ [])
    Inv s ∧ s.sessionValid = true ∧ s.fsm = .idle ∧ sessionTable? s = some T32 ∧ (word .A 5).portWf = true ∧
    encodeValue T32 (word .A 5) = .ok 5 ∧ s.par.directUpdate = false ∧ s.lineAnswers = true :: true :: true :: [] ∧
    T32.bidirectional = true ∧ s.cfg.pins.din ≠ none ∧ 0x1234 < 2 ^ T32.W ∧ s.transport.nextId = 0 ∧
    outstandingOf s.transport s.cfg.handle < queueDepth s.transport s.cfg.handle :=
  ⟨inv_opened _ _, rfl, rfl, rfl, rfl, rfl, rfl, rfl, rfl, by show some 19 ≠ none; decide, by decide, rfl,
    by show 0 < 8; decide⟩

/-- Of `DirectWriteRuns` with `DIRECT_UPDATE` true: 95_test_vectors.md, E2. -/
theorem witness_directUpdateRuns :
    let s := { opened [true, true, true]
      (.port (encode (.hostWrite (word .A 5))) :: runs 3 ++ .move (.perf 0 true 0) :: runs 7 ++ []) with
      par := { par with directUpdate := true } }
    Inv s ∧ s.sessionValid = true ∧ s.fsm = .idle ∧ sessionTable? s = some T32 ∧ s.par.directUpdate = true ∧
    s.cfg.pins.latch ≠ none ∧ outstandingOf s.transport s.cfg.handle < queueDepth s.transport s.cfg.handle :=
  ⟨inv_with (inv_of (s := { opened [] [] with par := { par with directUpdate := true } }) (T := T32) rfl
    (by decide +kernel) (by decide +kernel) (by decide +kernel)) _ _, rfl, rfl, rfl, rfl, by show some 17 ≠ none; decide,
    by show 0 < 8; decide⟩

/-- Of `BatchRunsInAnyCompletionOrder` and `PartialFailureSkipsTheLatch`: two words, performed in the other order. -/
theorem witness_batchRuns (i : List Input) (l : Bool) :
    let s := opened [true] i
    let ws := [word .A 5, word .B 6]
    Inv s ∧ s.sessionValid = true ∧ s.fsm = .idle ∧ sessionTable? s = some T32 ∧ ws ≠ [] ∧ ws.length ≤ s.cfg.depth ∧
    (Instr.hostWriteBatch ws l).wf = true ∧ ws.map (encodeValue T32) = [5, 0x01000006].map .ok ∧
    s.lineAnswers = [true] ∧
    outstandingOf s.transport s.cfg.handle + ws.length ≤ queueDepth s.transport s.cfg.handle ∧
    [1, 0].Perm (List.range ws.length) ∧ (∃ k < ws.length, decide (k = 0) = false) ∧ s.inbox = i :=
  ⟨inv_opened _ _, rfl, rfl, rfl, by simp, by show 2 ≤ 3; decide, rfl, rfl, rfl,
    by show 0 + 2 ≤ 8; decide, by show [1, 0].Perm (List.range 2); decide, ⟨1, by show 1 < 2; decide, rfl⟩, rfl⟩

/-- Of `BatchRunsInAnyCompletionOrder`: the first transfer is performed right after its submission, before the second's. -/
theorem witness_batchMoves :
    let moves : List EnvMove := [.run, .run, .perf 0 true 9, .run, .perf 1 true 8, .run]
    moves.count .run = 2 + 2 ∧ moves.length = 2 * 2 + 2 ∧
    (∀ k < 2, ∃ before after, moves = before ++ .perf (0 + k) true (if k = 0 then 9 else 8) :: after ∧
      k + 2 ≤ before.count .run) := by
  refine ⟨by decide, rfl, fun k hk => ?_⟩
  interval_cases k
  · exact ⟨[.run, .run], [.run, .perf 1 true 8, .run], rfl, by decide⟩
  · exact ⟨[.run, .run, .perf 0 true 9, .run], [.run], rfl, by decide⟩

theorem witness_emptyBatch (l : Bool) :
    let s := opened [true] (.port (encode (.hostWriteBatch [] l)) :: runs (if l then 9 else 8) ++ [])
    Inv s ∧ s.sessionValid = true ∧ s.fsm = .idle ∧ sessionTable? s = some T32 ∧ s.lineAnswers = [true] :=
  ⟨inv_opened _ _, rfl, rfl, rfl, rfl⟩

theorem witness_progress :
    Inv (writing [true] []) ∧ (writing [true] []).fsm ≠ .idle ∧ ¬ Waiting (writing [true] []) ∧
    ∃ t, engineStep (writing [true] []) = .next t := ⟨inv_writing _ _, by decide, (by rintro ⟨h, -⟩; cases h), _, rfl⟩

theorem witness_operationEnds :
    (Inv (ending (runs 6)) ∧ (ending (runs 6)).fsm ≠ .idle ∧ beforeAwait (ending (runs 6)).pc = false ∧
      (ending (runs 6)).inbox = runs 6 ++ []) ∧
    (Inv (afterWait (runs 6)) ∧ (afterWait (runs 6)).fsm ≠ .idle ∧ beforeAwait (afterWait (runs 6)).pc = false) :=
  ⟨⟨inv_ending _, by decide, rfl, rfl⟩, inv_afterWait _, by decide, rfl⟩

/-! ### Witnesses: the invariants of the trace, the lines and the transport -/

/-- Of `OperationTraceIsKept` and `TransportHistoryIsKept` (with `inv_ending`, `opInv_ending` and `perfInv_ending`). -/
theorem witness_traceKept :
    (∃ t, step (ending [.move .run]) = .next t) ∧ IdInv (ending [.move .run]) ∧ DepthInv (ending [.move .run]) :=
  ⟨⟨_, rfl⟩, by unfold IdInv; decide, fun _ => Nat.zero_le _⟩

theorem witness_linesKept :
    Inv (writing [true] [.move .run]) ∧ LineInv (writing [true] [.move .run]) ∧
    (writing [true] [.move .run]).trace.any isLineFailure = false ∧ ∃ t, step (writing [true] [.move .run]) = .next t :=
  ⟨inv_writing _ _, fun _ => ⟨fun _ => ⟨rfl, fun _ => rfl, fun _ => rfl⟩, fun o h => by cases h⟩, rfl, _, rfl⟩

/-- Of `LinesStandAtTheirLevels` while an OPEN is in progress: its first call made. -/
theorem witness_linesKept_opening :
    let s := { openingAt .latch [true] [.move .run] with lineSync := .known .high }
    Inv s ∧ LineInv s ∧ s.trace.any isLineFailure = false ∧ ∃ t, step s = .next t := by
  refine ⟨inv_closed rfl rfl rfl ⟨rfl, rfl, rfl⟩ (.inr ⟨.latch, rfl⟩)
      ⟨by show [0].Nodup; decide, by show ∀ id ∈ [0], id < 1; decide⟩,
    fun _ => ⟨fun h => (by cases h), fun o h r hm _ => ?_⟩, rfl, _, rfl⟩
  cases h
  cases r <;> first | rfl | cases hm

/-- Before its transfers were performed, the waiting batch's first transfer meets `PerfInv`. -/
theorem perfInv_submitting (i : List Input) : PerfInv (submitting 8 i) where
  once := fun id => by simp [perfCount, submitting, isPerfOf]
  pending := fun x _ => by simp [perfCount, submitting, isPerfOf]
  unborn := fun id _ => by simp [perfCount, submitting, isPerfOf]
  held := fun c h => by cases h

theorem perfInv_completed (i : List Input) : PerfInv (completed true i) where
  once := fun id => by
    by_cases h0 : id = 0
    · subst h0; rfl
    · by_cases h1 : id = 1
      · subst h1; rfl
      · have : perfCount id (completed true i).trace = 0 := by
          simp [perfCount, completed, isPerfOf, Ne.symm h0, Ne.symm h1]
        omega
  pending := fun x h => by cases h
  unborn := fun id h => by
    have h2 : 2 ≤ id := h
    have h0 : 0 ≠ id := by omega
    have h1 : 1 ≠ id := by omega
    simp [perfCount, completed, isPerfOf, h0, h1]
  held := fun c h => by
    have h' : c ∈ [⟨0, true, frameBytes 32 0⟩, ⟨1, true, frameBytes 32 0⟩] := h
    simp only [List.mem_cons, List.not_mem_nil, or_false] at h'
    rcases h' with rfl | rfl <;> simp [completed]

/-- A step that submits and a step whose wait answers `Ok`, for `IdsAreFreshAndOkMeansPerformed`. -/
theorem witness_idsAndWait :
    (Inv (submitting 8 [.move .run]) ∧ IdInv (submitting 8 [.move .run]) ∧ PerfInv (submitting 8 [.move .run]) ∧
      ∃ t, step (submitting 8 [.move .run]) = .next t ∧
        t.trace = (submitting 8 [.move .run]).trace ++ [.sub 1 0x01000006 32]) ∧
    (Inv (completed true [.move .run]) ∧ IdInv (completed true [.move .run]) ∧ PerfInv (completed true [.move .run]) ∧
      ∃ t, step (completed true [.move .run]) = .next t ∧
        t.trace = (completed true [.move .run]).trace ++ [.await [0, 1] .ok]) :=
  ⟨⟨inv_submitting 8 _ (.inl rfl), by unfold IdInv; decide, perfInv_submitting _, _, rfl, rfl⟩,
    inv_completed true _, by unfold IdInv; decide, perfInv_completed _, _, rfl, rfl⟩

/-- The cases of `SessionIsMadeByOpenAlone`: the reset input, a session kept, none made, an OPEN that passes its checks,
one that goes on, and one whose last line makes the session. -/
theorem witness_sessionIsMade :
    (Inv (opened [] [.reset]) ∧ ∃ t, step (opened [] [.reset]) = .next t) ∧
    (∃ t, step (opened [] [.move .run]) = .next t ∧ (opened [] [.move .run]).sessionValid = true) ∧
    (∃ t, step (closed [] [.move .run]) = .next t ∧ t.sessionValid = false) ∧
    (Inv (closed [] [.port (encode (.hostOpen 0 openCfg))]) ∧
      ∃ t, step (closed [] [.port (encode (.hostOpen 0 openCfg))]) = .next t ∧ t.opening ≠ none) ∧
    (∃ t, step (openingAt .reset [true] [.move .run]) = .next t ∧ t.opening ≠ none) ∧
    (Inv (openingAt .done [] [.move .run]) ∧
      ∃ t, step (openingAt .done [] [.move .run]) = .next t ∧ t.sessionValid = true) :=
  ⟨⟨inv_opened _ _, _, rfl⟩, ⟨_, rfl, rfl⟩, ⟨_, rfl, rfl⟩, ⟨inv_closed' _ _, _, rfl, by decide⟩, ⟨_, rfl, by decide⟩,
    inv_openingAt _ _ _, _, rfl, rfl⟩

/-- Of `InvariantRulesOutFaults`: the one refusal of a presentation. -/
theorem witness_refusal :
    let s := closed [] [.port (encode (.hostOpen 0 { openCfg with pipelineDepth := 5 }))]
    Inv s ∧ step s = .refused .notExpressible := ⟨inv_closed' _ _, rfl⟩

/-- The reset input abandons the batch in flight; without one, a run has ended (R239). -/
theorem witness_resetInput :
    (waiting none [] [.reset]).inbox = .reset :: [] ∧ operationInFlight (waiting none [] [.reset]) = true ∧
    RunEnded (opened [] []) := ⟨rfl, rfl, rfl, rfl, rfl, fun k h => by (cases h), rfl⟩

end Sys2Proof.Tests
end

section
/-! PROOF. Everything a step can do, said once: the lines of the engine (R143, R159) and the inputs (R61, R85, R220). -/

namespace Sys2Proof.Machine

/-- The lines of R143 that only choose where the engine goes on, with the next state of `FSM`, the next line and the
local result. -/
inductive Goes (s : State) : Fsm → EngineLine → OpResult → Prop where
  | s1 (pc : s.pc = .s1) (mode : s.mode = .pipelined) : Goes s s.fsm .s2 s.res
  | s3 (pc : s.pc = .s2) (last : ¬ (s.subIdx < s.n ∧ s.failed = false)) : Goes s .awaitingCompletion .w1 s.res
  | noWait (pc : s.pc = .w1) (empty : s.subIdx = 0) : Goes s s.fsm .w2 s.res
  | w2 (pc : s.pc = .w2) (mode : s.mode = .pipelined) : Goes s s.fsm .w3 s.res
  | failing (pc : s.pc = .w3) (failed : s.failed = true) : Goes s .anyFailed .f1 s.res
  | confirmed (pc : s.pc = .w3) (clean : s.failed = false) : Goes s .allConfirmed .c1 s.res
  | latching (pc : s.pc = .c1) (asked : s.latchReq = true) : Goes s .latching .latch .ok
  | unlatched (pc : s.pc = .c1) (notAsked : s.latchReq = false) : Goes s s.fsm .c2 .ok
  | decoded (T : FamilyTable) (pc : s.pc = .c2) (read : s.rdback = true ∧ s.res = .ok) :
      Goes s s.fsm .c3 (decodeResult T s.rx)
  | c2 (pc : s.pc = .c2) (noRead : ¬ (s.rdback = true ∧ s.res = .ok)) : Goes s s.fsm .c3 s.res

/-- The line calls of SYNC whose failure is recorded (R122, R123, R127), with the line that comes next. -/
inductive Calls (s : State) : Level → EngineLine → Prop where
  | s1 (pc : s.pc = .s1) : Calls s .low .s2
  | w2 (pc : s.pc = .w2) : Calls s .high .w3

/-- The two calls of LINES_IDLE (R126), with the line that comes next. -/
inductive Idles (s : State) : CtlLine → Level → EngineLine → Prop where
  | sync (pc : s.pc = .w1Sync) : Idles s .sync .high .w1Latch
  | latch (pc : s.pc = .w1Latch) : Idles s .latch s.par.latchIdle .w3

/-- Everything a line of the engine, or the end of its maximum wait, can do to an operation in flight (R143, R203). -/
inductive EngineMove (s : State) : State → Prop where
  | goes (f : Fsm) (p : EngineLine) (r : OpResult) (next : Goes s f p r) :
      EngineMove s { s with fsm := f, pc := p, res := r }
  | calls (v : Level) (p : EngineLine) (direct : s.mode = .direct) (next : Calls s v p) :
      EngineMove s { recordLine (setLine s.cfg.pins .sync v s) with pc := p }
  | idles (r : CtlLine) (v : Level) (p : EngineLine) (next : Idles s r v p) :
      EngineMove s { (setLine s.cfg.pins r v s).2 with pc := p }
  | queueFull (pc : s.pc = .s2) : EngineMove s (recordError (submitError s.mode) (emit .subFull s))
  | submits (T : FamilyTable) (f : Nat) (pc : s.pc = .s2) (more : s.subIdx < s.n) (table : sessionTable? s = some T)
      (slot : s.frame[s.subIdx]? = some f) :
      EngineMove s (emit (.sub s.transport.nextId f T.W) { s with
        transport := enqueue s.transport s.cfg.handle f T.W, ids := s.ids.set s.subIdx s.transport.nextId
        subIdx := s.subIdx + 1 })
  | awaited (cs : List Completion) (pc : s.pc = .w1) (some : s.subIdx ≠ 0)
      (complete : completionsOf? s.transport (awaitedIds s) = .some cs) :
      EngineMove s { takeRx (awaitAnswer cs) cs (awaitReturns (awaitAnswer cs) s) with pc := .w2 }
  | expires (a : AwaitRes) (p : EngineLine) (pc : s.pc = .w1)
      (next : a = .transportFailure ∧ p = .w2 ∨ a = .timeout ∧ p = .w1Sync) :
      EngineMove s { awaitReturns a s with pc := p }
  | pulsed (T : FamilyTable) (pc : s.pc = .latch) (ok : (latchPulse T s).1 = true) :
      EngineMove s { (latchPulse T s).2 with pc := .c2 }
  | pulseFailed (T : FamilyTable) (pc : s.pc = .latch) (failed : (latchPulse T s).1 = false) :
      EngineMove s { recordError .lineSequencingFailed (latchPulse T s).2 with
        res := .err .lineSequencingFailed, pc := .c2 }
  | ends (r : OpResult) (last : s.pc = .c3 ∧ r = s.res ∨ s.pc = .f1 ∧ r = .err s.err) : EngineMove s (finishOp r s)

theorem stepS1_move {s : State} (hpc : s.pc = .s1) : EngineMove s (stepS1 s) := by
  unfold stepS1
  split
  · exact .calls .low .s2 (by assumption) (.s1 hpc)
  · exact .goes s.fsm .s2 s.res (.s1 hpc (by assumption))

theorem stepS2_move {s t : State} (hpc : s.pc = .s2) (h : stepS2 s = .next t) : EngineMove s t := by
  rcases stepS2_cases h with ⟨T, f, hlt, _, hT, hf, rfl⟩ | ⟨hl, rfl⟩
  · by_cases hq : Machine.queueFull s.transport s.cfg.handle = true
    · rw [submit_full hq]
      exact .queueFull hpc
    · rw [submit_accepted (by simpa using hq)]
      exact .submits T f hpc hlt hT hf
  · exact .goes .awaitingCompletion .w1 s.res (.s3 hpc hl)

/-- Line W1 goes on, returns from the wait, or waits (R147). -/
theorem stepW1_cases {s : State} (hpc : s.pc = .w1) : stepW1 s = s ∨ EngineMove s (stepW1 s) := by
  unfold stepW1
  split
  · exact .inr (.goes s.fsm .w2 s.res (.noWait hpc (by assumption)))
  · split
    · exact .inl rfl
    · exact .inr (.awaited _ hpc (by assumption) (by assumption))

theorem stepW2_move {s : State} (hpc : s.pc = .w2) : EngineMove s (stepW2 s) := by
  unfold stepW2
  split
  · exact .calls .high .w3 (by assumption) (.w2 hpc)
  · exact .goes s.fsm .w3 s.res (.w2 hpc (by assumption))

theorem stepW3_move {s : State} (hpc : s.pc = .w3) : EngineMove s (stepW3 s) := by
  unfold stepW3
  split
  · exact .goes .anyFailed .f1 s.res (.failing hpc (by assumption))
  · exact .goes .allConfirmed .c1 s.res (.confirmed hpc (by simp_all))

theorem stepC1_move {s : State} (hpc : s.pc = .c1) : EngineMove s (stepC1 s) := by
  unfold stepC1
  split
  · exact .goes .latching .latch .ok (.latching hpc (by assumption))
  · exact .goes s.fsm .c2 .ok (.unlatched hpc (by simp_all))

theorem stepLatch_move {s : State} (T : FamilyTable) (hpc : s.pc = .latch) : EngineMove s (stepLatch T s) := by
  unfold stepLatch
  simp only
  split
  · exact .pulsed T hpc (by assumption)
  · exact .pulseFailed T hpc (by simp_all)

theorem stepC2_move {s : State} (T : FamilyTable) (hpc : s.pc = .c2) : EngineMove s (stepC2 T s) := by
  unfold stepC2
  split
  · exact .goes s.fsm .c3 (decodeResult T s.rx) (.decoded T hpc (by assumption))
  · exact .goes s.fsm .c3 s.res (.c2 hpc (by assumption))

/-- The engine rests, or a line of an operation in flight is taken (R159). -/
theorem engineStep_cases {s t : State} (h : engineStep s = .next t) : t = s ∨ s.fsm ≠ .idle ∧ EngineMove s t := by
  unfold engineStep at h
  split at h
  · cases h; exact .inl rfl
  · rename_i hf
    suffices t = s ∨ EngineMove s t from this.imp_right (⟨hf, ·⟩)
    split at h <;> rename_i hpc
    · cases h; exact .inl rfl
    · cases h; exact .inr (stepS1_move hpc)
    · exact .inr (stepS2_move hpc h)
    · cases h; exact stepW1_cases hpc
    · cases h; exact .inr (.idles .sync .high .w1Latch (.sync hpc))
    · cases h; exact .inr (.idles .latch s.par.latchIdle .w3 (.latch hpc))
    · cases h; exact .inr (stepW2_move hpc)
    · cases h; exact .inr (stepW3_move hpc)
    · cases h; exact .inr (stepC1_move hpc)
    · obtain ⟨T, _, h⟩ := withTable_next h
      cases h; exact .inr (stepLatch_move T hpc)
    · obtain ⟨T, _, h⟩ := withTable_next h
      cases h; exact .inr (stepC2_move T hpc)
    · cases h; exact .inr (.ends s.res (.inl ⟨hpc, rfl⟩))
    · cases h; exact .inr (.ends (.err s.err) (.inr ⟨hpc, rfl⟩))

/-- The maximum wait ends for an engine in flight at W1 alone (R43). -/
theorem mayExpire_iff {s : State} : mayExpire s = true ↔ s.fsm ≠ .idle ∧ s.pc = .w1 ∧ s.subIdx ≠ 0 ∧
    s.par.maxWait.isSome = true ∧ completionsOf? s.transport (awaitedIds s) = none := by
  simp [mayExpire, and_assoc]

/-- Everything an input can do when it answers a next state: the reset input (R220), a presentation (R85, R100, R142,
R180) or a move (R61, R159). -/
inductive InputMove (x : Option Input) (s : State) : State → Prop where
  | reset (input : x = some .reset) : InputMove x s (hardwareReset s)
  | unassigned (input : x ≠ some .reset) : InputMove x s (unassignedOp s)
  | codec (out : CodecOut) (input : x ≠ some .reset) : InputMove x s { s with codecOut := out }
  | refused (op : HostOp) (e : Error) (input : x ≠ some .reset) : InputMove x s (refuseOp op e s)
  | beginOpen (w : PortWord) (h : Nat) (c : OpenCfg) (T : FamilyTable) (input : x = some (.port w))
      (decoded : decode w = .instr (.hostOpen h c)) (noSession : s.sessionValid = false) (noOpen : s.opening = none)
      (table : s.par.table? c.deviceFamily = some T) (pins : pinMissing T c.pins = false)
      (depth : depthExpressible c s = true) : InputMove x s { s with opening := some ⟨h, c, .sync⟩ }
  | admitted (m : Mode) (b : Bool) (ws : List RegisterWord) (l : Bool) (T : FamilyTable) (fs : List Nat)
      (input : x ≠ some .reset) (session : s.sessionValid = true) (idle : s.fsm = .idle)
      (table : sessionTable? s = some T) (short : batchTooLong m ws s = false) (encoded : encodeAll T ws = .ok fs)
      (direct : m = .direct → ws.length = 1 ∧ l = (!b && s.par.directUpdate)) (batch : m = .pipelined → b = false) :
      InputMove x s (loadEngine m b fs l s)
  | openLine (o : Opening) (t : State) (input : x ≠ some .reset) (opening : s.opening = some o)
      (line : openStep o s = .next t) : InputMove x s t
  | engine (t : State) (input : x ≠ some .reset) (inFlight : s.fsm ≠ .idle) (move : EngineMove s t) : InputMove x s t
  | rest (input : x ≠ some .reset) : InputMove x s s
  | performed (id : Nat) (ok : Bool) (rx : Nat) (input : x ≠ some .reset) : InputMove x s (perform id ok rx s)

theorem envStep_move {m : EnvMove} {x : Option Input} {s t : State} (hx : x ≠ some .reset)
    (h : envStep m s = .next t) : InputMove x s t := by
  cases m with
  | run =>
    change blockStep s = .next t at h
    rcases blockStep_cases s with ⟨o, ho, e⟩ | ⟨_, e⟩ <;> rw [e] at h
    · exact .openLine o t hx ho h
    · rcases engineStep_cases h with rfl | ⟨hf, hm⟩
      · exact .rest hx
      · exact .engine t hx hf hm
  | perf id ok rx => cases h; exact .performed id ok rx hx
  | expire p =>
    cases h
    rcases waitExpires_cases p s with e | ⟨hm, _, e⟩ | ⟨hm, e⟩ <;> rw [e]
    · exact .rest hx
    · obtain ⟨hf, hpc, _⟩ := mayExpire_iff.mp hm
      exact .engine _ hx hf (.expires .transportFailure .w2 hpc (.inl ⟨rfl, rfl⟩))
    · obtain ⟨hf, hpc, _⟩ := mayExpire_iff.mp hm
      exact .engine _ hx hf (.expires .timeout .w1Sync hpc (.inr ⟨rfl, rfl⟩))

/-- ENCODE's answer is all that a frame command writes (R100). -/
theorem evalEncode_eq (T : FamilyTable) (w : RegisterWord) (s : State) :
    ∃ out, evalEncode T w s = { s with codecOut := out } := by
  unfold evalEncode
  split
  · exact ⟨_, rfl⟩
  · exact ⟨_, rfl⟩

theorem evalEncode_move {T : FamilyTable} {v : RegisterWord} {x : Option Input} {s t : State}
    (hx : x ≠ some .reset) (h : (.next (evalEncode T v s) : StepOutcome) = .next t) : InputMove x s t := by
  cases h
  obtain ⟨out, e⟩ := evalEncode_eq T v s
  rw [e]
  exact .codec out hx

/-- Admission as an input's act, where the operands are those of WRITE, WRITE_BATCH or READ (R140, R141, R155). -/
theorem admission_move {op : HostOp} {m : Mode} {b : Bool} {ws : List RegisterWord} {l : Bool} {x : Option Input}
    {s t : State} (hx : x ≠ some .reset) (hl : m = .direct → ws.length = 1 ∧ l = (!b && s.par.directUpdate))
    (hb : m = .pipelined → b = false) (h : admission op m b ws l s = .next t) : InputMove x s t := by
  rcases admission_cases h with ⟨e, _, rfl⟩ | ⟨T, fs, hv, hi, hT, _, hs, he, rfl⟩
  · exact .refused op e hx
  · exact .admitted m b ws l T fs hx hv hi hT hs he hl hb

theorem exec_move {w : PortWord} {i : Instr} {s t : State} (hd : decode w = .instr i) (h : exec i s = .next t) :
    InputMove (some (.port w)) s t := by
  have hx : some (Input.port w) ≠ some .reset := by simp
  cases i with
  | hostOpen hd' c =>
    rcases execOpen_cases h with ⟨_, rfl⟩ | ⟨T, hv, ho, hT, hdep, ⟨_, rfl⟩ | ⟨hp, rfl⟩⟩
    · exact .refused _ _ hx
    · exact .refused _ _ hx
    · exact .beginOpen w hd' c T rfl hd hv ho hT hp hdep
  | hostWrite v => exact admission_move hx (by simp) (by simp) h
  | hostWriteBatch vs l => exact admission_move hx (by simp) (by simp) h
  | hostRead v => exact admission_move hx (by simp) (by simp) h
  | _ => exact evalEncode_move hx h

theorem deliver_move {x : Input} {s t : State} (h : deliver x s = .next t) : InputMove (some x) s t := by
  cases x with
  | port w =>
    simp only [deliver, present] at h
    split at h
    · exact exec_move (by assumption) h
    · cases h; exact .unassigned (by simp)
    · cases h; exact .codec _ (by simp)
  | move m => exact envStep_move (by simp) h
  | reset => cases h; exact .reset rfl

/-- Everything a step can do (R41, R61, R85, R159, R220): the input is taken off the list, or a draw is counted, and
then the input acts. -/
theorem inputMove_of_step {s t : State} (h : step s = .next t) :
    ∃ i d, InputMove s.inbox.head? { s with inbox := i, draws := d } t := by
  rcases step_cases s with ⟨x, xs, hx, e⟩ | ⟨hx, e⟩ <;> rw [e] at h
  · exact ⟨xs, s.draws, by rw [hx]; exact deliver_move h⟩
  · exact ⟨s.inbox, s.draws + 1, by rw [hx]; exact envStep_move (by simp) (hx ▸ h)⟩

end Sys2Proof.Machine
end

section
/-! PROOF. What every line of the engine keeps, and what it does to `FAIL` and `ERR`: one relation each, proved once for
all lines (R16, R17, R18, R203). -/

namespace Sys2Proof.Machine

/-! ### The registers an operation keeps -/

/-- A call changes the register of its own role alone, and only where the role has a line (R24, R45). -/
theorem getLine_setLine_unassigned {p : Pins} {r : CtlLine} (h : p.ctl r = none) (q : CtlLine) (v : Level)
    (s : State) : getLine r (setLine p q v s).2 = getLine r s := by
  cases hq : p.ctl q with
  | none => rw [setLine_unassigned hq]
  | some l => exact (setLine_assigned (by simp [hq]) v s).2.2 r (by rintro rfl; simp [hq] at h)

theorem getLine_pulseLine_unassigned {p : Pins} {r : CtlLine} (h : p.ctl r = none) (q : CtlLine) (d : Nat)
    (s : State) : getLine r (pulseLine p q d s).2 = getLine r s := by
  cases hq : p.ctl q with
  | none => rw [pulseLine_unassigned hq]
  | some l => exact (pulseLine_assigned (by simp [hq]) d s).2.2 r (by rintro rfl; simp [hq] at h)

/-- `getLine` reads the three LINE registers alone. -/
theorem getLine_congr {s t : State} (h1 : t.lineSync = s.lineSync) (h2 : t.lineLatch = s.lineLatch)
    (h3 : t.lineReset = s.lineReset) (r : CtlLine) : getLine r t = getLine r s := by
  cases r
  · exact h1
  · exact h2
  · exact h3

/-- The registers admission loads for the whole operation are as they were, the session's and the parameters too; and
no line call reaches the register of an unassigned role (R24). -/
structure SameOperation (s t : State) : Prop where
  par          : t.par = s.par := by simp
  cfg          : t.cfg = s.cfg := by simp
  sessionValid : t.sessionValid = s.sessionValid := by simp
  opening      : t.opening = s.opening := by simp
  mode         : t.mode = s.mode := by simp
  rdback       : t.rdback = s.rdback := by simp
  n            : t.n = s.n := by simp
  frame        : t.frame = s.frame := by simp
  latchReq     : t.latchReq = s.latchReq := by simp
  idsLen       : t.ids.length = s.ids.length := by simp
  unassigned   : ∀ r, s.cfg.pins.ctl r = none → getLine r t = getLine r s

theorem EngineMove.sameOperation {s t : State} (h : EngineMove s t) : SameOperation s t := by
  cases h with
  | goes => exact { unassigned := fun r _ => getLine_congr rfl rfl rfl r }
  | calls v =>
    exact {
      unassigned := fun r hr =>
        (getLine_congr (by simp) (by simp) (by simp) r).trans (getLine_setLine_unassigned hr .sync v s) }
  | idles q v => exact { unassigned := fun r hr => getLine_setLine_unassigned hr q v s }
  | queueFull => exact { unassigned := fun r _ => getLine_congr (by simp) (by simp) (by simp) r }
  | submits => exact { unassigned := fun r _ => getLine_congr rfl rfl rfl r }
  | awaited => exact { unassigned := fun r _ => getLine_congr (by simp) (by simp) (by simp) r }
  | expires => exact { unassigned := fun r _ => getLine_congr (by simp) (by simp) (by simp) r }
  | pulsed T => exact { unassigned := fun r hr => getLine_pulseLine_unassigned hr .latch _ s }
  | pulseFailed T =>
    exact {
      unassigned := fun r hr => (getLine_congr (by simp [latchPulse]) (by simp [latchPulse])
        (by simp [latchPulse]) r).trans (getLine_pulseLine_unassigned hr .latch T.tLatchHoldMin s) }
  | ends => exact { unassigned := fun r _ => getLine_congr rfl rfl rfl r }

/-! ### `FAIL` and `ERR` -/

/-- What a step may do to `FAIL` and `ERR`: nothing, or record the operation's first error (R16, R203). -/
inductive Records (s t : State) : Prop where
  | kept (failed : t.failed = s.failed) (err : t.err = s.err)
  | first (clean : s.failed = false) (failed : t.failed = true) (error : isEngineError s.mode t.err = true)

/-- An error of the engine recorded after what leaves the flags alone. -/
theorem records_recordError {s u : State} {e : Error} (he : isEngineError s.mode e = true)
    (hf : u.failed = s.failed) (hr : u.err = s.err) : Records s (recordError e u) := by
  cases hs : s.failed with
  | true => exact .kept (by simp [hs]) (by simp [hf, hs, hr])
  | false => exact .first hs (by simp) (by simpa [hf, hs] using he)

theorem isEngineError_lineSequencingFailed (m : Mode) : isEngineError m .lineSequencingFailed = true := by
  cases m <;> rfl

theorem isEngineError_timeout (m : Mode) : isEngineError m .timeout = true := by cases m <;> rfl

theorem isEngineError_submitError (m : Mode) : isEngineError m (submitError m) = true := by cases m <;> rfl

theorem isEngineError_awaitError (m : Mode) : isEngineError m (awaitError m) = true := by cases m <;> rfl

theorem records_recordLine {s : State} {a : Bool × State} (hf : a.2.failed = s.failed) (hr : a.2.err = s.err) :
    Records s (recordLine a) := by
  cases ha : a.1 with
  | true => rw [recordLine_ok ha]; exact .kept hf hr
  | false =>
    rw [recordLine_failed ha]
    exact records_recordError (isEngineError_lineSequencingFailed _) hf hr

theorem records_awaitReturns (a : AwaitRes) (s : State) : Records s (awaitReturns a s) := by
  cases a with
  | ok => exact .kept rfl rfl
  | transportFailure => exact records_recordError (isEngineError_awaitError _) rfl rfl
  | timeout => exact records_recordError (isEngineError_timeout _) rfl rfl

/-- An answer other than `Ok` records an error (R143 W1). -/
theorem awaitReturns_failed_of_ne_ok {a : AwaitRes} (ha : a ≠ .ok) (s : State) : (awaitReturns a s).failed = true := by
  cases a with
  | ok => exact absurd rfl ha
  | transportFailure | timeout => simp [awaitReturns, recordAwait]

/-- The flags of the state after are all that `Records` reads of it. -/
theorem Records.congr {s t u : State} (h : Records s t) (hf : u.failed = t.failed) (hr : u.err = t.err) :
    Records s u := by
  cases h with
  | kept failed err => exact .kept (hf.trans failed) (hr.trans err)
  | first clean failed error => exact .first clean (hf.trans failed) (hr ▸ error)

theorem EngineMove.records {s t : State} (h : EngineMove s t) : Records s t := by
  cases h with
  | goes => exact .kept rfl rfl
  | calls v =>
    exact (records_recordLine (a := setLine s.cfg.pins .sync v s) (by simp) (by simp)).congr rfl rfl
  | idles => exact .kept (by simp) (by simp)
  | queueFull => exact records_recordError (isEngineError_submitError _) rfl rfl
  | submits => exact .kept rfl rfl
  | awaited cs => exact (records_awaitReturns (awaitAnswer cs) s).congr (by simp) (by simp)
  | expires a => exact (records_awaitReturns a s).congr rfl rfl
  | pulsed => exact .kept (by simp) (by simp)
  | pulseFailed T =>
    exact (records_recordError (u := (latchPulse T s).2) (isEngineError_lineSequencingFailed _) (by simp)
      (by simp)).congr rfl rfl
  | ends => exact .kept rfl rfl

/-- Once recorded, an error stays (R16). -/
theorem Records.of_failed {s t : State} (h : Records s t) (hs : s.failed = true) :
    t.failed = true ∧ t.err = s.err := by
  cases h with
  | kept failed err => exact ⟨failed.trans hs, err⟩
  | first clean => simp [hs] at clean

/-- `ERR` changes only where an error is recorded (R16). -/
theorem Records.of_clean {s t : State} (h : Records s t) (ht : t.failed = false) :
    s.failed = false ∧ t.err = s.err := by
  cases h with
  | kept failed err => exact ⟨failed ▸ ht, err⟩
  | first _ failed => simp [ht] at failed

/-- The recorded error is one of the engine's (R194 to R201). -/
theorem Records.isEngineError {s t : State} (h : Records s t) (hm : t.mode = s.mode)
    (he : s.failed = true → isEngineError s.mode s.err = true) :
    t.failed = true → isEngineError t.mode t.err = true := by
  intro ht
  cases h with
  | kept failed err => rw [hm, err]; exact he (failed ▸ ht)
  | first _ _ error => rw [hm]; exact error

/-- Every step that leaves an operation in flight leaves its error flags or records the first error. -/
theorem records_of_step {s t : State} (h : step s = .next t) (hs : s.fsm ≠ .idle) (ht : t.fsm ≠ .idle)
    (hv : s.opening = none) : Records s t := by
  obtain ⟨i, d, h⟩ := inputMove_of_step h
  cases h with
  | reset => exact absurd rfl ht
  | admitted _ _ _ _ _ _ _ _ idle => exact absurd idle hs
  | openLine o _ _ ho => simp [hv] at ho
  | engine _ _ _ move =>
    cases move.records with
    | kept failed err => exact .kept failed err
    | first clean failed error => exact .first clean failed error
  | performed => exact .kept (by simp) (by simp)
  | unassigned | codec | refused | beginOpen | rest => exact .kept rfl rfl

/-- An operation in flight has a session, and an OPEN in progress has none (R20, R180). -/
theorem Inv.opening_eq_none {s : State} (h : Inv s) (hs : s.fsm ≠ .idle) : s.opening = none := by
  rw [Option.eq_none_iff_forall_ne_some]
  intro o ho
  simpa [(h.flight hs).session] using (h.opening o ho).noSession

end Sys2Proof.Machine

open Sys2Proof Sys2Proof.Machine in
/-- Settles O36, through what every step does to `FAIL` and `ERR`. -/
theorem firstErrorWins : Obligations.FirstErrorWins := by
  intro s t hinv h hs ht
  have hr : Records s t := records_of_step h hs ht (hinv.opening_eq_none hs)
  exact ⟨hr.of_failed, fun _ hf => (hr.of_clean hf).2⟩
end

section
/-! PROOF. What keeps the transport's ids apart and a transfer held (R12, R42, R43, R61). -/

namespace Sys2Proof.Machine

theorem frameBytes_length (W f : Nat) : (frameBytes W f).length = W / 8 := by simp [frameBytes]

theorem TransportOk.enqueue {t : Transport} (h : TransportOk t) (hd f b : Nat) : TransportOk (enqueue t hd f b) := by
  have hfresh : t.nextId ∉ t.outstanding.map (·.id) ++ t.completions.map (·.id) := fun hm =>
    absurd (h.older _ hm) (lt_irrefl _)
  have hperm : ((Machine.enqueue t hd f b).outstanding.map (·.id) ++
      (Machine.enqueue t hd f b).completions.map (·.id)).Perm
      (t.nextId :: (t.outstanding.map (·.id) ++ t.completions.map (·.id))) := by
    simp [Machine.enqueue]
  refine ⟨hperm.nodup_iff.mpr (List.nodup_cons.mpr ⟨hfresh, h.distinct⟩), fun id hid => ?_⟩
  rcases List.mem_cons.mp (hperm.mem_iff.mp hid) with rfl | hold
  · exact Nat.lt_succ_self _
  · exact Nat.lt_succ_of_lt (h.older id hold)

theorem TransportOk.clearCompletions {t : Transport} (h : TransportOk t) (ids : List Nat) :
    TransportOk (clearCompletions t ids) := by
  have hsub : ((Machine.clearCompletions t ids).outstanding.map (·.id) ++
      (Machine.clearCompletions t ids).completions.map (·.id)).Sublist
      (t.outstanding.map (·.id) ++ t.completions.map (·.id)) :=
    (List.Sublist.refl _).append (List.filter_sublist.map _)
  exact ⟨h.distinct.sublist hsub, fun id hid => h.older id (hsub.subset hid)⟩

/-- A performance moves one id from the outstanding transfers to the completions (R61). -/
theorem ids_completeTransfer_perm {t : Transport} (h : (t.outstanding.map (·.id)).Nodup) {x : Transfer}
    (hx : x ∈ t.outstanding) (ok : Bool) (rx : Nat) :
    ((completeTransfer t x ok rx).outstanding.map (·.id) ++ (completeTransfer t x ok rx).completions.map (·.id)).Perm
      (t.outstanding.map (·.id) ++ t.completions.map (·.id)) := by
  have herase : (completeTransfer t x ok rx).outstanding.map (·.id) = (t.outstanding.map (·.id)).erase x.id := by
    rw [h.erase_eq_filter, List.filter_map]
    rfl
  have hids : (completeTransfer t x ok rx).completions.map (·.id) = t.completions.map (·.id) ++ [x.id] := by
    simp [completeTransfer]
  rw [herase, hids, ← List.append_assoc]
  exact List.perm_append_comm.trans
    ((List.perm_cons_erase (List.mem_map_of_mem hx)).symm.append_right (t.completions.map (·.id)))

theorem TransportOk.completeTransfer {t : Transport} (h : TransportOk t) {x : Transfer} (hx : x ∈ t.outstanding)
    (ok : Bool) (rx : Nat) : TransportOk (completeTransfer t x ok rx) := by
  have hperm := ids_completeTransfer_perm (List.nodup_append.mp h.distinct).1 hx ok rx
  exact ⟨hperm.nodup_iff.mpr h.distinct, fun id hid => h.older id (hperm.subset hid)⟩

theorem heldFor_enqueue {T : FamilyTable} {t : Transport} {id : Nat} (h : heldFor T t id) (hd f b : Nat) :
    heldFor T (enqueue t hd f b) id := by
  rcases h with ⟨x, hx, hid⟩ | hc
  · exact .inl ⟨x, List.mem_append_left _ hx, hid⟩
  · exact .inr hc

theorem heldFor_enqueue_new (T : FamilyTable) (t : Transport) (hd f : Nat) :
    heldFor T (enqueue t hd f T.W) t.nextId :=
  .inl ⟨_, List.mem_append_right _ (List.mem_singleton_self _), rfl, rfl⟩

/-- A performed transfer stays held, as a completion of one whole frame (R49, R61). -/
theorem heldFor_completeTransfer {T : FamilyTable} {t : Transport} {id : Nat} (ht : TransportOk t) (h : heldFor T t id)
    {x : Transfer} (hx : x ∈ t.outstanding) (ok : Bool) (rx : Nat) : heldFor T (completeTransfer t x ok rx) id := by
  rcases h with ⟨y, hy, rfl, hw⟩ | ⟨c, hc, hid⟩
  · by_cases hyx : y.id = x.id
    · have hout : (t.outstanding.map (·.id)).Nodup := (List.nodup_append.mp ht.distinct).1
      obtain rfl : y = x := List.inj_on_of_nodup_map hout hy hx hyx
      exact .inr ⟨_, List.mem_append_right _ (List.mem_singleton_self _), rfl, by
        simp [frameBytes_length, hw, FamilyTable.L]⟩
    · exact .inl ⟨y, List.mem_filter.mpr ⟨hy, by simpa using hyx⟩, rfl, hw⟩
  · exact .inr ⟨c, List.mem_append_left _ hc, hid⟩

/-- What the wait takes for a transfer the engine waits for is one whole frame (R25, R49). -/
theorem rx_length_of_heldFor {T : FamilyTable} {t : Transport} (ht : TransportOk t) {c : Completion}
    (hc : c ∈ t.completions) (h : heldFor T t c.id) : c.rx.length = T.L := by
  obtain ⟨_, hcomp, hdisj⟩ := List.nodup_append.mp ht.distinct
  rcases h with ⟨x, hx, hid, _⟩ | ⟨c', hc', hid, hlen⟩
  · exact absurd hid (hdisj _ (List.mem_map_of_mem hx) _ (List.mem_map_of_mem hc))
  · obtain rfl : c' = c := List.inj_on_of_nodup_map hcomp hc' hc hid
    exact hlen

end Sys2Proof.Machine
end

section
/-! PROOF. What the invariant says at each line of R143, and that every line leads to one that fits (R15, R16, R17). -/

namespace Sys2Proof.Machine

theorem pcFits_submitting {f : Fsm} {p : EngineLine} (h : pcFits f p = true) (hp : p = .s1 ∨ p = .s2) :
    f = .submitting := by
  rcases hp with rfl | rfl <;> cases f <;> simp_all [pcFits]

theorem pcFits_awaiting {f : Fsm} {p : EngineLine} (h : pcFits f p = true)
    (hp : p = .w1 ∨ p = .w1Sync ∨ p = .w1Latch ∨ p = .w2 ∨ p = .w3) : f = .awaitingCompletion := by
  rcases hp with rfl | rfl | rfl | rfl | rfl <;> cases f <;> simp_all [pcFits]

theorem pcFits_confirmed {f : Fsm} {p : EngineLine} (h : pcFits f p = true) (hp : p = .c1) : f = .allConfirmed := by
  subst hp; cases f <;> simp_all [pcFits]

theorem pcFits_latching {f : Fsm} {p : EngineLine} (h : pcFits f p = true) (hp : p = .latch) : f = .latching := by
  subst hp; cases f <;> simp_all [pcFits]

theorem pcFits_ending {f : Fsm} {p : EngineLine} (h : pcFits f p = true) (hp : p = .c2 ∨ p = .c3) :
    f = .allConfirmed ∨ f = .latching := by
  rcases hp with rfl | rfl <;> cases f <;> simp_all [pcFits]

/-- What the invariant says of the operation in flight at each line of R143, beside what no line changes. -/
inductive AtLine (s : State) : Prop where
  | s1 (fsm : s.fsm = .submitting) (pc : s.pc = .s1) (empty : s.subIdx = 0) (clean : s.failed = false)
  | s2 (fsm : s.fsm = .submitting) (pc : s.pc = .s2)
  | wait (fsm : s.fsm = .awaitingCompletion) (pc : s.pc = .w1 ∨ s.pc = .w2 ∨ s.pc = .w3)
      (complete : s.failed = false → s.subIdx = s.n)
  | timedOut (fsm : s.fsm = .awaitingCompletion) (pc : s.pc = .w1Sync ∨ s.pc = .w1Latch) (failed : s.failed = true)
  | confirmed (fsm : s.fsm = .allConfirmed) (pc : s.pc = .c1) (clean : s.failed = false) (complete : s.subIdx = s.n)
  | unlatched (fsm : s.fsm = .allConfirmed) (pc : s.pc = .c2 ∨ s.pc = .c3) (clean : s.failed = false)
      (complete : s.subIdx = s.n) (notAsked : s.latchReq = false) (result : s.pc = .c2 → s.res = .ok)
      (decoded : s.pc = .c3 → ∀ e, s.res = .err e → s.rdback = true ∧ e = .malformedFrame)
  | latch (fsm : s.fsm = .latching) (pc : s.pc = .latch) (clean : s.failed = false) (complete : s.subIdx = s.n)
      (asked : s.latchReq = true) (result : s.res = .ok)
  | latched (fsm : s.fsm = .latching) (pc : s.pc = .c2 ∨ s.pc = .c3) (complete : s.subIdx = s.n)
      (asked : s.latchReq = true) (result : (s.failed = false ∧ s.res = .ok) ∨
        (s.failed = true ∧ s.err = .lineSequencingFailed ∧ s.res = .err .lineSequencingFailed))
  | failing (fsm : s.fsm = .anyFailed) (pc : s.pc = .f1) (failed : s.failed = true)

theorem AtLine.pcFits {s : State} (h : AtLine s) : pcFits s.fsm s.pc = true := by
  cases h with
  | s1 fsm pc | s2 fsm pc | confirmed fsm pc | latch fsm pc | failing fsm pc => rw [fsm, pc]; rfl
  | timedOut fsm pc | unlatched fsm pc | latched fsm pc => rcases pc with pc | pc <;> rw [fsm, pc] <;> rfl
  | wait fsm pc => rcases pc with pc | pc | pc <;> rw [fsm, pc] <;> rfl

/-- The clauses on what no line changes come from before the step, those on the line from where the engine stands. -/
theorem AtLine.flightOk {s t : State} (h : AtLine t) (hs : FlightOk s) (e : SameOperation s t)
    (hc : t.subIdx ≤ t.n) (he : t.failed = true → isEngineError t.mode t.err = true) : FlightOk t where
  session   := by rw [e.sessionValid]; exact hs.session
  counts    := ⟨hc, by rw [e.n, e.par]; exact hs.counts.2⟩
  direct    := by rw [e.mode, e.n]; exact hs.direct
  pipelined := by rw [e.mode, e.n, e.cfg, e.rdback]; exact hs.pipelined
  readback  := by rw [e.rdback, e.latchReq]; exact hs.readback
  update    := by rw [e.mode, e.rdback, e.latchReq, e.par]; exact hs.update
  frames    := by rw [sessionTable?, e.par, e.cfg, e.frame, e.n]; exact hs.frames
  errors    := he
  fresh hp       := by cases h <;> simp_all
  complete hf hl := by cases h <;> simp_all [confirmedSoFar]
  timedOut hp    := by rcases hp with hp | hp <;> cases h <;> simp_all
  confirmed hp   := by rcases hp with hp | hp <;> cases h <;> simp_all
  latching hf    := by cases h <;> simp_all
  notLatch hf hp := by cases h <;> simp_all
  failing hf     := by cases h <;> simp_all
  result hp      := by rcases hp with hp | ⟨hf, hp⟩ <;> cases h <;> simp_all
  latchRes hf hp := by cases h <;> simp_all
  decoded hf hp  := by cases h <;> simp_all

/-- DECODE refuses with `MalformedFrame` alone (R104). -/
theorem decodeWord_error {T : FamilyTable} {b : List Byte} {e : Error} (h : decodeWord T b = .error e) :
    e = .malformedFrame := by
  unfold decodeWord at h
  split at h
  · unfold decodeValue at h
    repeat' split at h
    all_goals cases h
    all_goals rfl
  · cases h; rfl

theorem decodeResult_error {T : FamilyTable} {b : List Byte} {e : Error} (h : decodeResult T b = .err e) :
    e = .malformedFrame := by
  unfold decodeResult at h
  split at h
  · cases h
  · rename_i he
    cases h; exact decodeWord_error he

section

variable {s : State} (hs : FlightOk s) (hp : pcFits s.fsm s.pc = true)
include hs hp

/-- Before the latch pulse, an operation without an error has submitted all its frames (R15, R149). -/
theorem complete_of_awaiting (hpc : s.pc = .w1 ∨ s.pc = .w1Sync ∨ s.pc = .w1Latch ∨ s.pc = .w2 ∨ s.pc = .w3) :
    s.fsm = .awaitingCompletion ∧ (s.failed = false → s.subIdx = s.n) := by
  have hf := pcFits_awaiting hp hpc
  exact ⟨hf, fun hc => hs.complete (by simp [hf]) (.inl hc)⟩

theorem complete_of_c1 (hpc : s.pc = .c1) : s.fsm = .allConfirmed ∧ s.failed = false ∧ s.subIdx = s.n := by
  have hf := pcFits_confirmed hp hpc
  have hc := hs.confirmed (.inl hf)
  exact ⟨hf, hc, hs.complete (by simp [hf]) (.inl hc)⟩

theorem complete_of_latch (hpc : s.pc = .latch) :
    s.fsm = .latching ∧ s.failed = false ∧ s.subIdx = s.n ∧ s.latchReq = true ∧ s.res = .ok := by
  have hf := pcFits_latching hp hpc
  exact ⟨hf, hs.confirmed (.inr hpc), hs.complete (by simp [hf]) (.inr hf), hs.latching hf, hs.result (.inl hpc)⟩

/-- Line C2 takes an operation to C3 with its result so far, or with what DECODE made of a READ's bytes (R143). -/
theorem atLine_c3 {r : OpResult} (hpc : s.pc = .c2)
    (hr : r = s.res ∨ s.rdback = true ∧ ∀ e, r = .err e → e = .malformedFrame) :
    AtLine { s with pc := .c3, res := r } := by
  rcases pcFits_ending hp (.inl hpc) with hf | hf
  · have hc := hs.confirmed (.inl hf)
    have hok := hs.result (.inr ⟨hf, hpc⟩)
    refine .unlatched hf (.inr rfl) hc (hs.complete (by simp [hf]) (.inl hc)) (hs.notLatch hf (by simp [hpc])) nofun
      fun _ e he => ?_
    rcases hr with rfl | ⟨hb, hr⟩
    · exact absurd (hok ▸ he) nofun
    · exact ⟨hb, hr e he⟩
  · have hq := hs.latching hf
    rcases hr with rfl | ⟨hb, _⟩
    · exact .latched hf (.inr rfl) (hs.complete (by simp [hf]) (.inr hf)) hq (hs.latchRes hf (.inl hpc))
    · simp [hs.readback hb] at hq

theorem Goes.atLine {f : Fsm} {p : EngineLine} {r : OpResult} (h : Goes s f p r) :
    AtLine { s with fsm := f, pc := p, res := r } := by
  cases h with
  | s1 hpc => exact .s2 (pcFits_submitting hp (.inl hpc)) rfl
  | s3 hpc last =>
    refine .wait rfl (.inl rfl) fun hc => ?_
    exact le_antisymm hs.counts.1 (not_lt.mp fun hlt => last ⟨hlt, hc⟩)
  | noWait hpc =>
    obtain ⟨hf, hc⟩ := complete_of_awaiting hs hp (.inl hpc)
    exact .wait hf (.inr (.inl rfl)) hc
  | w2 hpc =>
    obtain ⟨hf, hc⟩ := complete_of_awaiting hs hp (by simp [hpc])
    exact .wait hf (.inr (.inr rfl)) hc
  | failing _ failed => exact .failing rfl rfl failed
  | confirmed hpc clean =>
    obtain ⟨_, hc⟩ := complete_of_awaiting hs hp (by simp [hpc])
    exact .confirmed rfl rfl clean (hc clean)
  | latching hpc asked =>
    obtain ⟨_, hc, hn⟩ := complete_of_c1 hs hp hpc
    exact .latch rfl rfl hc hn asked rfl
  | unlatched hpc notAsked =>
    obtain ⟨hf, hc, hn⟩ := complete_of_c1 hs hp hpc
    exact .unlatched hf (.inl rfl) hc hn notAsked (fun _ => rfl) nofun
  | decoded T hpc read => exact atLine_c3 hs hp hpc (.inr ⟨read.1, fun e he => decodeResult_error he⟩)
  | c2 hpc => exact atLine_c3 hs hp hpc (.inl rfl)

/-- After a line of the engine the operation has ended, or stands at a line that fits it. -/
theorem EngineMove.atLine {t : State} (h : EngineMove s t) :
    t.fsm = .idle ∧ t.pc = .idle ∨ AtLine t ∧ t.subIdx ≤ t.n := by
  have hle := hs.counts.1
  cases h with
  | goes f p r next => exact .inr ⟨next.atLine hs hp, hle⟩
  | calls v p _ next =>
    refine .inr ⟨?_, by simpa using hle⟩
    cases next with
    | s1 hpc => exact .s2 (by simpa using pcFits_submitting hp (.inl hpc)) rfl
    | w2 hpc =>
      obtain ⟨hf, hc⟩ := complete_of_awaiting hs hp (by simp [hpc])
      exact .wait (by simpa using hf) (.inr (.inr rfl)) fun ht => by
        simpa using hc ((EngineMove.calls .high .w3 ‹_› (.w2 hpc)).records.of_clean ht).1
  | idles q v p next =>
    refine .inr ⟨?_, by simpa using hle⟩
    cases next with
    | sync hpc =>
      exact .timedOut (by simpa using pcFits_awaiting hp (by simp [hpc])) (.inr rfl)
        (by simpa using hs.timedOut (.inl hpc))
    | latch hpc =>
      exact .wait (by simpa using pcFits_awaiting hp (by simp [hpc])) (.inr (.inr rfl)) fun ht => by
        simp [hs.timedOut (.inr hpc)] at ht
  | queueFull hpc =>
    exact .inr ⟨.s2 (by simpa using pcFits_submitting hp (.inr hpc)) (by simpa using hpc), by simpa using hle⟩
  | submits T f hpc more => exact .inr ⟨.s2 (pcFits_submitting hp (.inr hpc)) hpc, more⟩
  | awaited cs hpc =>
    obtain ⟨hf, hc⟩ := complete_of_awaiting hs hp (.inl hpc)
    refine .inr ⟨.wait (by simpa using hf) (.inr (.inl rfl)) fun ht => ?_, by simpa using hle⟩
    simpa using hc ((EngineMove.awaited cs hpc ‹_› ‹_›).records.of_clean ht).1
  | expires a p hpc next =>
    obtain ⟨hf, hc⟩ := complete_of_awaiting hs hp (.inl hpc)
    refine .inr ⟨?_, by simpa using hle⟩
    rcases next with ⟨rfl, rfl⟩ | ⟨rfl, rfl⟩
    · exact .wait (by simpa using hf) (.inr (.inl rfl)) fun ht => by
        simp [awaitReturns_failed_of_ne_ok (a := .transportFailure) nofun s] at ht
    · exact .timedOut (by simpa using hf) (.inl rfl) (awaitReturns_failed_of_ne_ok (a := .timeout) nofun s)
  | pulsed T hpc =>
    obtain ⟨hf, hc, hn, hq, hr⟩ := complete_of_latch hs hp hpc
    exact .inr ⟨.latched (by simpa using hf) (.inl rfl) (by simpa using hn) (by simpa using hq)
      (.inl ⟨by simpa using hc, by simpa using hr⟩), by simpa using hle⟩
  | pulseFailed T hpc =>
    obtain ⟨hf, hc, hn, hq, _⟩ := complete_of_latch hs hp hpc
    exact .inr ⟨.latched (by simpa using hf) (.inl rfl) (by simpa using hn) (by simpa using hq)
      (.inr ⟨by simp, by simp [hc], rfl⟩), by simpa using hle⟩
  | ends => exact .inl ⟨rfl, rfl⟩

end

end Sys2Proof.Machine
end

section
/-! PROOF. Every step keeps the invariant of the registers: the engine's lines, the performances, the reset input,
admission and OPEN each by a lemma of its own. -/

namespace Sys2Proof.Machine

/-! ### The transfers of the operation (R12, R25, R43) -/

theorem EngineMove.transportOk {s t : State} (h : EngineMove s t) (ht : TransportOk s.transport) :
    TransportOk t.transport := by
  cases h with
  | submits T f => exact ht.enqueue _ _ _
  | awaited => simpa using ht.clearCompletions _
  | expires => simpa using ht.clearCompletions _
  | _ => simpa using ht

/-- The ids named after a submission are those named before and the fresh one. -/
theorem mem_take_succ_set {l : List Nat} {i a x : Nat} (h : x ∈ (l.set i a).take (i + 1)) : x ∈ l.take i ∨ x = a := by
  rw [List.take_add_one, List.mem_append, List.take_set_of_le (le_refl i)] at h
  refine h.imp_right fun hx => ?_
  rw [List.getElem?_set_self'] at hx
  cases hi : l[i]? <;> simp_all

theorem EngineMove.held {s t : State} (h : EngineMove s t) (hinv : Inv s) (hs : s.fsm ≠ .idle)
    (hb : beforeAwait t.pc = true) {T : FamilyTable} (hT : sessionTable? s = some T) :
    ∀ id ∈ awaitedIds t, heldFor T t.transport id := by
  have hold (hpc : beforeAwait s.pc = true) : ∀ id ∈ awaitedIds s, heldFor T s.transport id :=
    hinv.held hs hpc T hT
  cases h with
  | goes f p r next =>
    cases next with
    | s1 hpc | s3 hpc => exact hold (by rw [hpc]; rfl)
    | _ => cases hb
  | calls v p _ next =>
    cases next with
    | s1 hpc => simpa [awaitedIds] using hold (by rw [hpc]; rfl)
    | w2 => cases hb
  | idles q v p next => cases next <;> cases hb
  | queueFull hpc => simpa [awaitedIds] using hold (by rw [hpc]; rfl)
  | submits T' f hpc _ hT' =>
    obtain rfl : T' = T := Option.some.inj (hT'.symm.trans hT)
    intro id hid
    rcases mem_take_succ_set hid with hid | rfl
    · exact heldFor_enqueue (hold (by rw [hpc]; rfl) id hid) _ _ _
    · exact heldFor_enqueue_new _ _ _ _
  | expires a p _ next => rcases next with ⟨_, rfl⟩ | ⟨_, rfl⟩ <;> cases hb
  | awaited | pulsed | pulseFailed | ends => cases hb

/-- On success of a READ, `RX` takes the bytes of the first transfer named (R156). -/
theorem takeRx_rx_of_ok {cs : List Completion} {s : State} (hr : s.rdback = true) (hcs : cs ≠ []) :
    ∃ c ∈ cs, (takeRx .ok cs s).rx = c.rx := by
  cases cs with
  | nil => exact absurd rfl hcs
  | cons c cs => exact ⟨c, List.mem_cons_self, by simp [takeRx, hr]⟩

theorem EngineMove.rx_length {s t : State} (h : EngineMove s t) (hinv : Inv s) (hs : s.fsm ≠ .idle)
    (hb : beforeAwait t.pc = false) (hr : t.rdback = true) (hc : t.failed = false) {T : FamilyTable}
    (hT : sessionTable? s = some T) : t.rx.length = T.L := by
  have hr' : s.rdback = true := h.sameOperation.rdback ▸ hr
  have hc' : s.failed = false := (h.records.of_clean hc).1
  have hold (hpc : beforeAwait s.pc = false) : s.rx.length = T.L := hinv.rxLen hs hpc hr' hc' T hT
  have hfl := hinv.flight hs
  cases h with
  | goes f p r next =>
    cases next with
    | s1 | s3 => cases hb
    | noWait hpc empty =>
      have hd : s.mode = .direct := by
        cases hm : s.mode with
        | direct => rfl
        | pipelined => simp [(hfl.pipelined hm).2] at hr'
      have hn := hfl.direct hd
      have := (complete_of_awaiting hfl hinv.pc (.inl hpc)).2 hc'
      omega
    | w2 hpc | failing hpc | confirmed hpc | latching hpc | unlatched hpc | decoded _ hpc | c2 hpc =>
      exact hold (by rw [hpc]; rfl)
  | calls v p _ next =>
    cases next with
    | s1 => cases hb
    | w2 hpc => simpa using hold (by rw [hpc]; rfl)
  | idles q v p next =>
    cases next with
    | sync hpc | latch hpc => simpa using hold (by rw [hpc]; rfl)
  | queueFull hpc => simp [hpc, beforeAwait] at hb
  | submits T' f hpc => simp [hpc, beforeAwait] at hb
  | expires a p _ next =>
    have ha : a ≠ .ok := by rcases next with ⟨rfl, _⟩ | ⟨rfl, _⟩ <;> simp
    exact absurd ((awaitReturns_failed_of_ne_ok ha s).symm.trans hc) nofun
  | awaited cs hpc hne complete =>
    obtain ⟨hids, hmem⟩ := completionsOf?_some complete
    have ha : awaitAnswer cs = .ok := by
      by_contra ha
      simp [awaitReturns_failed_of_ne_ok ha s] at hc
    have hcs : cs ≠ [] := by
      rintro rfl
      have hlen : (awaitedIds s).length = 0 := by rw [← hids]; rfl
      have := hfl.counts
      have := hinv.idsLen
      simp only [awaitedIds, List.length_take] at hlen
      omega
    obtain ⟨c, hcin, hrx⟩ := takeRx_rx_of_ok (s := awaitReturns (awaitAnswer cs) s) (by simpa using hr') hcs
    have hid : c.id ∈ awaitedIds s := hids ▸ List.mem_map_of_mem hcin
    have hheld := hinv.held hs (by rw [hpc]; rfl) T hT c.id hid
    rw [ha] at hrx ⊢
    exact hrx ▸ rx_length_of_heldFor hinv.transport (hmem c hcin) hheld
  | pulsed _ hpc | pulseFailed _ hpc => simpa using hold (by rw [hpc]; rfl)
  | ends r last => rcases last with ⟨hpc, _⟩ | ⟨hpc, _⟩ <;> exact hold (by rw [hpc]; rfl)

/-! ### The engine, admission, OPEN and the performances keep the invariant -/

theorem SameOperation.sessionTable? {s t : State} (h : SameOperation s t) : sessionTable? t = sessionTable? s := by
  simp only [Machine.sessionTable?, h.par, h.cfg]

theorem EngineMove.inv {s t : State} (h : EngineMove s t) (hinv : Inv s) (hs : s.fsm ≠ .idle) : Inv t := by
  have hfl := hinv.flight hs
  have e := h.sameOperation
  have hat := h.atLine hfl hinv.pc
  refine ⟨e.par ▸ hinv.par, by rw [e.frame, e.par]; exact hinv.frameLen, by rw [e.idsLen, e.par]; exact hinv.idsLen,
    ?_, fun hv => (hinv.session (e.sessionValid ▸ hv)).congr e.par e.cfg,
    fun o ho => (hinv.opening o (e.opening ▸ ho)).congr e.par e.sessionValid, fun hv r hr => ?_, fun ht => ?_,
    h.transportOk hinv.transport, fun _ hb T hT => h.held hinv hs hb (e.sessionTable? ▸ hT),
    fun _ hb hr hc T hT => h.rx_length hinv hs hb hr hc (e.sessionTable? ▸ hT)⟩
  · rcases hat with ⟨hf, hpc⟩ | ⟨hl, _⟩
    · rw [hf, hpc]; rfl
    · exact hl.pcFits
  · rw [e.cfg] at hr
    rw [e.unassigned r hr]
    exact hinv.unassigned (e.sessionValid ▸ hv) r hr
  · rcases hat with ⟨hf, _⟩ | ⟨hl, hle⟩
    · exact absurd hf ht
    · exact hl.flightOk hfl e hle (h.records.isEngineError e.mode hfl.errors)

theorem perform_inv {s : State} (h : Inv s) (id : Nat) (ok : Bool) (rx : Nat) : Inv (perform id ok rx s) := by
  rcases perform_cases id ok rx s with e | ⟨x, hx, _, e⟩ <;> rw [e]
  · exact h
  · exact ⟨h.par, h.frameLen, h.idsLen, h.pc, fun hv => (h.session hv).congr rfl rfl,
      fun o ho => (h.opening o ho).congr rfl rfl,
      fun hv r hr => (getLine_congr rfl rfl rfl r).trans (h.unassigned hv r hr),
      fun hf => (h.flight hf).congr rfl rfl rfl rfl rfl rfl rfl rfl rfl rfl rfl rfl rfl rfl,
      h.transport.completeTransfer hx ok rx,
      fun hf hb T hT i hi => heldFor_completeTransfer h.transport (h.held hf hb T hT i hi) hx ok rx, h.rxLen⟩

theorem hardwareReset_inv {s : State} (h : Inv s) : Inv (hardwareReset s) :=
  ⟨h.par, by simp, by simp, rfl, nofun, nofun, nofun, fun hf => absurd rfl hf, h.transport,
    fun hf => absurd rfl hf, fun hf => absurd rfl hf⟩

/-! ### Frame values (R71, R72, R101) -/

theorem wf_of_table? {p : Params} {tag : Nat} {T : FamilyTable} (hp : p.wf = true) (h : p.table? tag = some T) :
    T.wf = true := by
  simp only [Params.wf, Bool.and_eq_true] at hp
  exact List.all_eq_true.mp hp.1.2 T (List.mem_of_find?_eq_some h)

/-- A value that fits a field inside the frame stays inside the frame at the field's place (R71 (a)). -/
theorem shiftLeft_lt_of_insideFrame {W lo w v : Nat} (hin : insideFrame W lo w = true) (hv : v < 2 ^ w) :
    v <<< lo < 2 ^ W := by
  simp only [insideFrame, Bool.or_eq_true, decide_eq_true_eq] at hin
  rcases hin with rfl | hle
  · obtain rfl : v = 0 := by omega
    simp
  · calc v <<< lo = v * 2 ^ lo := Nat.shiftLeft_eq v lo
      _ < 2 ^ w * 2 ^ lo := Nat.mul_lt_mul_of_pos_right hv (Nat.two_pow_pos lo)
      _ = 2 ^ (lo + w) := by rw [← pow_add, add_comm]
      _ ≤ 2 ^ W := Nat.pow_le_pow_right (by omega) hle

theorem dirBit_lt (T : FamilyTable) (d : Direction) : dirBit T d < 2 ^ 1 := by
  cases d <;> cases h : T.dirWrite <;> simp [dirBit, h]

/-- The mode bits ENCODE accepts fit the mode field (R101 (d), (e)). -/
theorem modeValue_lt {T : FamilyTable} {b : Bool} {m : Option Nat} (h : modeAccepted T b m = true) :
    modeValue m < 2 ^ T.modeW := by
  cases m with
  | none => exact Nat.two_pow_pos _
  | some v => cases b <;> simp_all [modeAccepted, modeValue]

/-- ENCODE's frame values are below `2^W` (R72, R101). -/
theorem encodeValue_lt {T : FamilyTable} {w : RegisterWord} {f : Nat} (hT : T.wf = true)
    (h : encodeValue T w = .ok f) : f < 2 ^ T.W := by
  obtain ⟨hrep, hf⟩ := encodeValue_ok h
  simp only [FamilyTable.wf, FamilyTable.fieldsInside, FamilyTable.codesOk, Bool.and_eq_true, List.all_eq_true,
    decide_eq_true_eq] at hT
  obtain ⟨⟨⟨⟨_, ⟨⟨⟨hdir, hcmd⟩, hchan⟩, hdata⟩, hmode⟩, _⟩, ⟨⟨⟨⟨_, hcmds⟩, _⟩, _⟩, hchans⟩⟩, _⟩ := hT
  unfold frameValue? at hf
  unfold representable at hrep
  split at hf
  · rename_i r a hr ha
    rw [ha, hr] at hrep
    simp only [Bool.and_eq_true, decide_eq_true_eq] at hrep
    cases hf
    exact Nat.or_lt_two_pow (Nat.or_lt_two_pow (Nat.or_lt_two_pow (Nat.or_lt_two_pow
      (shiftLeft_lt_of_insideFrame hdir (dirBit_lt T _))
      (shiftLeft_lt_of_insideFrame hcmd (hcmds r (List.mem_of_find?_eq_some hr))))
      (shiftLeft_lt_of_insideFrame hchan (hchans a (List.mem_of_find?_eq_some ha))))
      (shiftLeft_lt_of_insideFrame hdata hrep.1)) (shiftLeft_lt_of_insideFrame hmode (modeValue_lt hrep.2))
  · cases hf

/-! ### Admission and OPEN -/

section

variable {s : State} {m : Mode} {b : Bool} {ws : List RegisterWord} {l : Bool} {T : FamilyTable} {fs : List Nat}

/-- An admitted operation's frames fit `FRAME`, and a batch's fit the pipeline depth (R13, R143 A4). -/
theorem admitted_length (h : Inv s) (session : s.sessionValid = true) (short : batchTooLong m ws s = false)
    (encoded : encodeAll T ws = .ok fs) (direct : m = .direct → ws.length = 1) :
    fs.length ≤ s.par.maxDepth ∧ (m = .direct → fs.length = 1) ∧ (m = .pipelined → fs.length ≤ s.cfg.depth) := by
  have hlen := (encodeAll_ok encoded).1
  have hdepth := (h.session session).depth
  have hpar : 1 ≤ s.par.maxDepth := hdepth.1.trans hdepth.2
  cases m with
  | direct =>
    have := direct rfl
    exact ⟨by omega, fun _ => by omega, nofun⟩
  | pipelined =>
    simp only [batchTooLong, decide_true, Bool.true_and, decide_eq_false_iff_not] at short
    exact ⟨by omega, nofun, fun _ => by omega⟩

/-- What admission loads is an operation at line S1 (R142 A6). -/
theorem loadEngine_flightOk (h : Inv s) (session : s.sessionValid = true)
    (table : sessionTable? s = some T) (short : batchTooLong m ws s = false) (encoded : encodeAll T ws = .ok fs)
    (direct : m = .direct → ws.length = 1 ∧ l = (!b && s.par.directUpdate))
    (batch : m = .pipelined → b = false) : FlightOk (loadEngine m b fs l s) := by
  obtain ⟨hmax, hone, hdepth⟩ := admitted_length h session short encoded (fun hm => (direct hm).1)
  exact {
    session   := session
    counts    := ⟨Nat.zero_le _, hmax⟩
    direct    := hone
    pipelined := fun hm => ⟨hdepth hm, batch hm⟩
    readback  := fun hb => by
      cases m with
      | direct =>
        have hb' : b = true := hb
        simpa [hb'] using (direct rfl).2
      | pipelined => exact absurd ((batch rfl).symm.trans hb) nofun
    update    := fun hm hb => by
      have hb' : b = false := hb
      simpa [hb'] using (direct hm).2
    frames    := fun T' hT' f hf => by
      obtain rfl : T = T' := Option.some.inj (table.symm.trans hT')
      have hf' : f ∈ fs := by simpa using hf
      obtain ⟨w, _, hw⟩ := (encodeAll_ok encoded).2 f hf'
      exact encodeValue_lt (wf_of_table? h.par table) hw
    fresh     := fun _ => ⟨rfl, rfl⟩
    complete  := fun hn => absurd rfl hn
    timedOut  := by simp
    confirmed := by simp
    latching  := by simp
    notLatch  := by simp
    failing   := by simp
    result    := by simp
    latchRes  := by simp
    errors    := by simp
    decoded   := by simp }

theorem loadEngine_inv (h : Inv s) (session : s.sessionValid = true) (table : sessionTable? s = some T)
    (short : batchTooLong m ws s = false) (encoded : encodeAll T ws = .ok fs)
    (direct : m = .direct → ws.length = 1 ∧ l = (!b && s.par.directUpdate))
    (batch : m = .pipelined → b = false) : Inv (loadEngine m b fs l s) := by
  have hflight := loadEngine_flightOk h session table short encoded direct batch
  have hfs : fs.length ≤ s.par.maxDepth := hflight.counts.2
  refine ⟨h.par, ?_, h.idsLen, rfl, fun hv => (h.session hv).congr rfl rfl,
    fun o ho => (h.opening o ho).congr rfl rfl,
    fun hv r hr => (getLine_congr rfl rfl rfl r).trans (h.unassigned hv r hr), fun _ => hflight, h.transport,
    fun _ _ _ _ id hid => ?_, fun _ hb => ?_⟩
  · have := h.frameLen
    simp only [loadEngine_frame, loadEngine_par, List.length_append, List.length_drop]
    omega
  · simp [awaitedIds] at hid
  · cases hb

end

/-- A state in which OPEN alone has written: the operands in `opening`, and the LINE registers while no session reads
them. -/
theorem Inv.whileOpening {s t : State} (h : Inv s) (hv : s.sessionValid = false) (e : SameRegisters s t)
    (ho : ∀ o, t.opening = some o → OpeningOk s o) : Inv t :=
  h.congr e (fun o h => (ho o h).congr e.par e.sessionValid) fun hv' => by
    rw [e.sessionValid, hv] at hv'
    cases hv'

theorem setLine_sameRegisters (p : Pins) (r : CtlLine) (v : Level) (s : State) :
    SameRegisters s (setLine p r v s).2 := by
  constructor <;> simp

theorem openPulse_sameRegisters (T : FamilyTable) (p : Pins) (s : State) :
    SameRegisters s (openPulse T p s).2 := by
  constructor <;> simp

theorem openNext_inv {s : State} {o : Opening} {a : Bool × State} (h : Inv s) (ho : s.opening = some o)
    (e : SameRegisters s a.2) (l : OpenLine) : Inv (openNext o l a) := by
  obtain ⟨hv, hfam, hpins, hdepth⟩ := h.opening o ho
  refine h.whileOpening hv ⟨e.par, e.cfg, e.sessionValid, e.fsm, e.mode, e.rdback, e.n, e.subIdx, e.frame, e.latchReq,
    e.failed, e.err, e.pc, e.res, e.ids, e.rx, e.transport⟩ fun q hq => ?_
  cases hq
  exact ⟨hv, hfam, hpins, hdepth⟩

/-- Without a session no operation is in flight (R20). -/
theorem Inv.idle_of_noSession {s : State} (h : Inv s) (hv : s.sessionValid = false) : s.fsm = .idle := by
  by_contra hf
  simp [(h.flight hf).session] at hv

/-- The step that establishes the session forgets the registers of the roles it leaves unassigned (R184). -/
theorem getLine_establish (hd : Nat) (c : OpenCfg) (s : State) (r : CtlLine) :
    getLine r (establish hd c s) = if c.pins.ctl r = none then .unknown else getLine r s := by
  cases r with
  | sync => cases h : c.pins.sync <;> simp [getLine, keepAssigned, Pins.ctl, Pins.get, CtlLine.role, h]
  | latch => cases h : c.pins.latch <;> simp [getLine, keepAssigned, Pins.ctl, Pins.get, CtlLine.role, h]
  | reset => cases h : c.pins.reset <;> simp [getLine, keepAssigned, Pins.ctl, Pins.get, CtlLine.role, h]

theorem establish_inv {s : State} {o : Opening} (h : Inv s) (ho : OpeningOk s o) :
    Inv (establish o.handle o.cfg s) := by
  have hidle := h.idle_of_noSession ho.noSession
  refine ⟨h.par, h.frameLen, h.idsLen, h.pc, fun _ => ⟨ho.family, ho.pins, ho.depth⟩, nofun, fun _ r hr => ?_,
    fun hf => absurd hidle hf, h.transport, fun hf => absurd hidle hf, fun hf => absurd hidle hf⟩
  exact (getLine_establish o.handle o.cfg s r).trans (if_pos hr)

theorem openStep_inv {s t : State} {o : Opening} (h : Inv s) (ho : s.opening = some o)
    (hs : openStep o s = .next t) : Inv t := by
  have hok := h.opening o ho
  rcases openStep_cases hs with ⟨r, v, l, rfl, _⟩ | ⟨T, _, _, rfl⟩ | ⟨_, rfl⟩ | ⟨_, rfl⟩
  · exact openNext_inv h ho (setLine_sameRegisters _ _ _ _) l
  · exact openNext_inv h ho (openPulse_sameRegisters _ _ _) .done
  · exact establish_inv h hok
  · exact h.whileOpening hok.noSession (by constructor <;> rfl) nofun

theorem InputMove.inv {x : Option Input} {s t : State} (h : InputMove x s t) (hinv : Inv s) : Inv t := by
  cases h with
  | reset => exact hardwareReset_inv hinv
  | unassigned | codec | refused =>
    exact hinv.same (by constructor <;> rfl) rfl (getLine_congr rfl rfl rfl)
  | beginOpen w hd c T _ _ noSession _ table pins depth =>
    refine hinv.whileOpening noSession (by constructor <;> rfl) fun o ho => ?_
    cases ho
    refine ⟨noSession, by simp [table], fun T' hT' => ?_, by simpa [depthExpressible] using depth⟩
    obtain rfl : T = T' := Option.some.inj (table.symm.trans hT')
    exact pins
  | admitted m b ws l T fs _ session idle table short encoded direct batch =>
    exact loadEngine_inv hinv session table short encoded direct batch
  | openLine o _ _ ho line => exact openStep_inv hinv ho line
  | engine _ _ inFlight move => exact move.inv hinv inFlight
  | rest => exact hinv
  | performed id ok rx => exact perform_inv hinv id ok rx

/-- Taking an input off the list, or counting a draw, touches no register. -/
theorem Inv.afterInput {s : State} (h : Inv s) (i : List Input) (d : Nat) : Inv { s with inbox := i, draws := d } :=
  h.same (by constructor <;> rfl) rfl (getLine_congr rfl rfl rfl)

end Sys2Proof.Machine

open Sys2Proof Sys2Proof.Machine in
/-- Settles O51, by cases on what the input does. -/
theorem registerInvariantIsKept : Obligations.RegisterInvariantIsKept := by
  intro s t hinv h
  obtain ⟨i, d, hmove⟩ := inputMove_of_step h
  exact hmove.inv (hinv.afterInput i d)
end

section
/-! PROOF. Each LINE register follows the line events of the trace (R24, R45, R46, R184). -/

namespace Sys2Proof.Machine

/-- A step that adds events to the trace, no OPEN's success among them, and leaves each LINE register as they say. -/
def LineStep (s t : State) : Prop :=
  ∃ es, t.trace = s.trace ++ es ∧ .ret .openOp .ok ∉ es ∧
    ∀ r, getLine r t = lineAfterEvents s.par r (getLine r s) es

/-- A step that leaves the trace and the LINE registers. -/
theorem LineStep.refl {s t : State} (ht : t.trace = s.trace) (hl : ∀ r, getLine r t = getLine r s) : LineStep s t :=
  ⟨[], by simp [ht], by simp, hl⟩

/-- A step that adds an event of another port and leaves the LINE registers. -/
theorem LineStep.silent {s t : State} {e : Event} (ht : t.trace = s.trace ++ [e]) (he : e ≠ .ret .openOp .ok)
    (hl : ∀ r, getLine r t = getLine r s) (hs : ∀ p r v, lineAfterEvent p r v e = v) : LineStep s t :=
  ⟨[e], ht, by simpa using he.symm, fun r => (hl r).trans (hs _ _ _).symm⟩

/-- The trace and the LINE registers after are all that `LineStep` reads of the state after. -/
theorem LineStep.congr {s t u : State} (h : LineStep s t) (ht : u.trace = t.trace)
    (hl : ∀ r, getLine r u = getLine r t) : LineStep s u := by
  obtain ⟨es, htr, hret, hline⟩ := h
  exact ⟨es, ht.trans htr, hret, fun r => (hl r).trans (hline r)⟩

/-- A call of an assigned line: its event, and the register of its role alone. -/
theorem LineStep.call {s t : State} {q : CtlLine} {v : LineState} {e : Event}
    (h : t.trace = s.trace ++ [e] ∧ getLine q t = v ∧ ∀ r, r ≠ q → getLine r t = getLine r s)
    (he : e ≠ .ret .openOp .ok) (hv : ∀ r x, lineAfterEvent s.par r x e = if q = r then v else x) : LineStep s t := by
  obtain ⟨htrace, hsame, hother⟩ := h
  refine ⟨[e], htrace, by simpa using he.symm, fun r => ?_⟩
  by_cases hr : q = r
  · subst hr
    simp [lineAfterEvents, hv, hsame]
  · simp [lineAfterEvents, hv, hr, hother r (Ne.symm hr)]

theorem setLine_lineStep (p : Pins) (q : CtlLine) (v : Level) (s : State) : LineStep s (setLine p q v s).2 := by
  cases hq : p.ctl q with
  | none => rw [setLine_unassigned hq]; exact .refl rfl fun _ => rfl
  | some l => exact .call (setLine_assigned (by simp [hq]) v s) nofun fun _ _ => rfl

theorem pulseLine_lineStep (p : Pins) (q : CtlLine) (d : Nat) (s : State) : LineStep s (pulseLine p q d s).2 := by
  cases hq : p.ctl q with
  | none => rw [pulseLine_unassigned hq]; exact .refl rfl fun _ => rfl
  | some l =>
    exact .call (pulseLine_assigned (by simp [hq]) d s) nofun fun r _ => by
      simp only [lineAfterEvent, lineAfter]
      split <;> simp_all

theorem openPulse_lineStep (T : FamilyTable) (p : Pins) (s : State) : LineStep s (openPulse T p s).2 := by
  rcases openPulse_cases T p s with e | e <;> rw [e]
  · exact .refl rfl fun _ => rfl
  · exact pulseLine_lineStep _ _ _ _

theorem opInFlight_ne_openOp (s : State) : opInFlight s ≠ .openOp := by
  unfold opInFlight
  split <;> simp

theorem EngineMove.lineStep {s t : State} (h : EngineMove s t) : LineStep s t := by
  cases h with
  | goes => exact .refl rfl (getLine_congr rfl rfl rfl)
  | calls v =>
    exact (setLine_lineStep s.cfg.pins .sync v s).congr (by simp) (getLine_congr (by simp) (by simp) (by simp))
  | idles q v => exact (setLine_lineStep s.cfg.pins q v s).congr rfl (getLine_congr rfl rfl rfl)
  | queueFull =>
    exact .silent (e := .subFull) (by simp) nofun (getLine_congr (by simp) (by simp) (by simp)) fun _ _ _ => rfl
  | submits T f =>
    exact .silent (e := .sub s.transport.nextId f T.W) rfl nofun (getLine_congr rfl rfl rfl) fun _ _ _ => rfl
  | awaited cs =>
    exact .silent (e := .await (awaitedIds s) (awaitAnswer cs)) (by simp) nofun
      (getLine_congr (by simp) (by simp) (by simp)) fun _ _ _ => rfl
  | expires a =>
    exact .silent (e := .await (awaitedIds s) a) (by simp) nofun
      (getLine_congr (by simp) (by simp) (by simp)) fun _ _ _ => rfl
  | pulsed T =>
    exact (pulseLine_lineStep s.cfg.pins .latch T.tLatchHoldMin s).congr rfl (getLine_congr rfl rfl rfl)
  | pulseFailed T =>
    exact (pulseLine_lineStep s.cfg.pins .latch T.tLatchHoldMin s).congr (by simp [latchPulse])
      (getLine_congr (by simp [latchPulse]) (by simp [latchPulse]) (by simp [latchPulse]))
  | ends r =>
    exact .silent (e := .ret (opInFlight s) r) rfl (by simp [opInFlight_ne_openOp]) (getLine_congr rfl rfl rfl)
      fun _ _ _ => rfl

theorem refuseOp_lineStep (op : HostOp) (e : Error) (s : State) : LineStep s (refuseOp op e s) :=
  .silent (e := .ret op (.err e)) rfl (by simp) (getLine_congr rfl rfl rfl) fun _ _ _ => rfl

theorem perform_lineStep (id : Nat) (ok : Bool) (rx : Nat) (s : State) : LineStep s (perform id ok rx s) := by
  rcases perform_cases id ok rx s with e | ⟨x, _, _, e⟩ <;> rw [e]
  · exact .refl rfl fun _ => rfl
  · exact .silent (e := .perf id ok) rfl nofun (getLine_congr rfl rfl rfl) fun _ _ _ => rfl

/-- A line of OPEN is a line step, but for the one that establishes the session. -/
theorem openStep_lineStep {o : Opening} {s t : State} (h : openStep o s = .next t) :
    LineStep s t ∨ t = establish o.handle o.cfg s := by
  rcases openStep_cases h with ⟨r, v, l, rfl, _⟩ | ⟨T, _, _, rfl⟩ | ⟨_, rfl⟩ | ⟨_, rfl⟩
  · exact .inl ((setLine_lineStep o.cfg.pins r v s).congr rfl (getLine_congr rfl rfl rfl))
  · exact .inl ((openPulse_lineStep T o.cfg.pins s).congr rfl (getLine_congr rfl rfl rfl))
  · exact .inr rfl
  · exact .inl (refuseOp_lineStep .openOp .lineSequencingFailed { s with opening := none })

/-- Everything a step that is not the reset input's does to the trace and the LINE registers. -/
theorem InputMove.lineStep {x : Option Input} {s t : State} (h : InputMove x s t) (hx : x ≠ some .reset) :
    LineStep s t ∨ ∃ hd c, t = establish hd c s := by
  cases h with
  | reset input => exact absurd input hx
  | unassigned | codec | beginOpen | admitted | rest => exact .inl (.refl rfl (getLine_congr rfl rfl rfl))
  | refused op e => exact .inl (refuseOp_lineStep op e s)
  | openLine o _ _ _ line => exact (openStep_lineStep line).imp_right fun h => ⟨_, _, h⟩
  | engine _ _ _ move => exact .inl move.lineStep
  | performed id ok rx => exact .inl (perform_lineStep id ok rx s)

end Sys2Proof.Machine

open Sys2Proof Sys2Proof.Machine in
/-- Settles O39: the step that establishes a session writes the registers of unassigned roles, and every other step is
a line step. -/
theorem lineRegistersFollowTheTrace : Obligations.LineRegistersFollowTheTrace := by
  intro s t hx h
  obtain ⟨i, d, hmove⟩ := inputMove_of_step h
  have hsame (r : CtlLine) : getLine r { s with inbox := i, draws := d } = getLine r s := getLine_congr rfl rfl rfl r
  rcases hmove.lineStep hx with ⟨es, htrace, hret, hline⟩ | ⟨hd, c, rfl⟩
  · exact ⟨es, htrace, fun r => by simpa [hret, hsame] using hline r⟩
  · exact ⟨[.ret .openOp .ok], rfl, fun r => by
      rw [← hsame r]
      simpa [lineAfterEvents, lineAfterEvent] using getLine_establish hd c _ r⟩
end

section
/-! PROOF. In a state that meets the invariant every step answers a next state, but for an OPEN that cannot be expressed
(R13, R21, R180). -/

namespace Sys2Proof.Machine

theorem withTable_eq {s : State} {T : FamilyTable} (h : sessionTable? s = some T) (k : FamilyTable → StepOutcome) :
    withTable s k = k T := by
  unfold sessionTable? at h
  simp [withTable, h]

theorem Inv.table {s : State} (h : Inv s) (hv : s.sessionValid = true) : ∃ T, sessionTable? s = some T :=
  Option.isSome_iff_exists.mp (h.session hv).family

theorem admission_next {s : State} (h : Inv s) (op : HostOp) (m : Mode) (b : Bool) (ws : List RegisterWord) (l : Bool) :
    ∃ t, admission op m b ws l s = .next t := by
  unfold admission
  split
  · exact ⟨_, rfl⟩
  · rename_i hv
    obtain ⟨T, hT⟩ := h.table (by simpa using hv)
    rw [withTable_eq hT]
    repeat' split
    all_goals exact ⟨_, rfl⟩

theorem stepS2_next {s : State} (h : Inv s) (hs : s.fsm ≠ .idle) : ∃ t, stepS2 s = .next t := by
  unfold stepS2
  split
  · rename_i hmore
    obtain ⟨T, hT⟩ := h.table (h.flight hs).session
    have hslot : s.subIdx < s.frame.length := by
      have := (h.flight hs).counts
      have := h.frameLen
      omega
    rw [withTable_eq hT, List.getElem?_eq_getElem hslot]
    exact ⟨_, rfl⟩
  · exact ⟨_, rfl⟩

theorem engineStep_next {s : State} (h : Inv s) : ∃ t, engineStep s = .next t := by
  unfold engineStep
  split
  · exact ⟨_, rfl⟩
  · rename_i hs
    obtain ⟨T, hT⟩ := h.table (h.flight hs).session
    split
    case h_3 => exact stepS2_next h hs
    case h_10 | h_11 => exact ⟨_, withTable_eq hT _⟩
    all_goals exact ⟨_, rfl⟩

theorem openStep_next {s : State} {o : Opening} (h : OpeningOk s o) : ∃ t, openStep o s = .next t := by
  obtain ⟨T, hT⟩ := Option.isSome_iff_exists.mp h.family
  unfold openStep
  split
  case h_4 => rw [hT]; exact ⟨_, rfl⟩
  all_goals exact ⟨_, rfl⟩

theorem envStep_next {s : State} (h : Inv s) (m : EnvMove) : ∃ t, envStep m s = .next t := by
  cases m with
  | run =>
    change ∃ t, blockStep s = .next t
    rcases blockStep_cases s with ⟨o, ho, e⟩ | ⟨_, e⟩ <;> rw [e]
    · exact openStep_next (h.opening o ho)
    · exact engineStep_next h
  | perf | expire => exact ⟨_, rfl⟩

/-- The operands of an OPEN that cannot be expressed (R180). -/
def inexpressible (c : OpenCfg) (s : State) : Prop :=
  s.par.table? c.deviceFamily = none ∨ c.pipelineDepth = 0 ∨ s.par.maxDepth < c.pipelineDepth

theorem execOpen_answers (h : Nat) (c : OpenCfg) (s : State) :
    (∃ t, execOpen h c s = .next t) ∨
    (execOpen h c s = .refused .notExpressible ∧ s.sessionValid = false ∧ inexpressible c s) := by
  unfold execOpen
  split
  · exact .inl ⟨_, rfl⟩
  · rename_i hb
    have hv : s.sessionValid = false := by simp_all
    split
    · exact .inr ⟨rfl, hv, .inl (by assumption)⟩
    · split
      · exact .inl ⟨_, rfl⟩
      · rename_i hd
        refine .inr ⟨rfl, hv, .inr ?_⟩
        simp only [depthExpressible, Bool.and_eq_true, decide_eq_true_eq] at hd
        omega

theorem exec_answers {s : State} (hinv : Inv s) (i : Instr) :
    (∃ t, exec i s = .next t) ∨
    (exec i s = .refused .notExpressible ∧ ∃ h c, i = .hostOpen h c ∧ s.sessionValid = false ∧ inexpressible c s) := by
  cases i with
  | hostOpen h c => exact (execOpen_answers h c s).imp_right fun ⟨e, hv, hc⟩ => ⟨e, h, c, rfl, hv, hc⟩
  | hostWrite | hostWriteBatch | hostRead => exact .inl (admission_next hinv _ _ _ _ _)
  | _ => exact .inl ⟨_, rfl⟩

theorem step_answers {s : State} (hinv : Inv s) :
    (∃ t, step s = .next t) ∨
    (step s = .refused .notExpressible ∧ ∃ w h c, s.inbox.head? = some (.port w) ∧ decode w = .instr (.hostOpen h c) ∧
      s.sessionValid = false ∧ inexpressible c s) := by
  rcases step_cases s with ⟨x, xs, hx, e⟩ | ⟨_, e⟩ <;> rw [e]
  · have hinv' : Inv { s with inbox := xs } := hinv.afterInput xs s.draws
    cases x with
    | port w =>
      simp only [deliver, present]
      split
      · rename_i i hd
        refine (exec_answers hinv' i).imp_right fun ⟨he, h, c, hi, hv, hc⟩ => ⟨he, w, h, c, by rw [hx]; rfl, ?_, hv, hc⟩
        rw [hd, hi]
      · exact .inl ⟨_, rfl⟩
      · exact .inl ⟨_, rfl⟩
    | move m => exact .inl (envStep_next hinv' m)
    | reset => exact .inl ⟨_, rfl⟩
  · exact .inl (envStep_next (hinv.afterInput s.inbox (s.draws + 1)) _)

end Sys2Proof.Machine

open Sys2Proof Sys2Proof.Machine in
/-- Settles O53: a step answers a next state or the one refusal. -/
theorem invariantRulesOutFaults : Obligations.InvariantRulesOutFaults := by
  intro s hinv
  rcases step_answers hinv with ⟨t, e⟩ | ⟨e, hopen⟩ <;> rw [e]
  · exact ⟨nofun, nofun⟩
  · refine ⟨nofun, fun r hr => ?_⟩
    cases hr
    exact ⟨rfl, hopen⟩
end

section
/-! PROOF. What each input does to the session, its configuration and the OPEN in progress (R20, R21, R84, R180). -/

namespace Sys2Proof.Machine

/-- What the input `x` does to the session, its configuration and the OPEN in progress. -/
structure SessionMove (x : Option Input) (s t : State) : Prop where
  par    : t.par = s.par
  reset  : x = some .reset → t.sessionValid = false ∧ t.opening = none
  kept   : x ≠ some .reset → s.sessionValid = true → t.sessionValid = true ∧ t.cfg = s.cfg
  cfg    : x ≠ some .reset → t.sessionValid = false → t.cfg = s.cfg
  made   : x ≠ some .reset → s.sessionValid = false → t.sessionValid = true →
    ∃ o, s.opening = some o ∧ o.line = .done ∧ t.result = .ok ∧
      t.cfg = ⟨o.cfg.deviceFamily, o.cfg.pins, o.handle, o.cfg.pipelineDepth, o.cfg.clockFreq⟩
  opened : x ≠ some .reset → ∀ o, t.opening = some o →
    (∃ q, s.opening = some q ∧ q.handle = o.handle ∧ q.cfg = o.cfg) ∨
    ∃ w, x = some (.port w) ∧ decode w = .instr (.hostOpen o.handle o.cfg) ∧ o.line = .sync

/-- An input other than the reset input that leaves session and configuration. -/
theorem SessionMove.same {x : Option Input} {s t : State} (hx : x ≠ some .reset) (hp : t.par = s.par)
    (hc : t.cfg = s.cfg) (hv : t.sessionValid = s.sessionValid)
    (ho : ∀ o, t.opening = some o → (∃ q, s.opening = some q ∧ q.handle = o.handle ∧ q.cfg = o.cfg) ∨
      ∃ w, x = some (.port w) ∧ decode w = .instr (.hostOpen o.handle o.cfg) ∧ o.line = .sync) :
    SessionMove x s t where
  par := hp
  reset h := absurd h hx
  kept _ h := ⟨hv.trans h, hc⟩
  cfg _ _ := hc
  made _ h h' := by simp [hv, h] at h'
  opened _ := ho

/-- An OPEN in progress that stays as it is. -/
theorem SessionMove.sameOpening {x : Option Input} {s t : State} (hx : x ≠ some .reset) (hp : t.par = s.par)
    (hc : t.cfg = s.cfg) (hv : t.sessionValid = s.sessionValid) (ho : t.opening = s.opening) : SessionMove x s t :=
  .same hx hp hc hv fun o h => .inl ⟨o, ho ▸ h, rfl, rfl⟩

theorem openStep_sessionMove {x : Option Input} {s t : State} {o : Opening} (hx : x ≠ some .reset)
    (ho : s.opening = some o) (hok : OpeningOk s o) (h : openStep o s = .next t) : SessionMove x s t := by
  rcases openStep_cases h with ⟨r, v, l, rfl, _⟩ | ⟨T, _, _, rfl⟩ | ⟨hl, rfl⟩ | ⟨_, rfl⟩
  · exact .same hx (by simp) (by simp) (by simp) fun q hq => .inl ⟨o, ho, by cases hq; exact ⟨rfl, rfl⟩⟩
  · exact .same hx (by simp) (by simp) (by simp) fun q hq => .inl ⟨o, ho, by cases hq; exact ⟨rfl, rfl⟩⟩
  · exact {
      par := rfl
      reset := fun h => absurd h hx
      kept := fun _ hv => by simp [hok.noSession] at hv
      cfg := fun _ => nofun
      made := fun _ _ _ => ⟨o, ho, hl, rfl, rfl⟩
      opened := fun _ => nofun }
  · exact .same hx rfl rfl rfl nofun

theorem InputMove.sessionMove {x : Option Input} {s t : State} (h : InputMove x s t) (hinv : Inv s) :
    SessionMove x s t := by
  cases h with
  | reset hx =>
    exact {
      par := rfl
      reset := fun _ => ⟨rfl, rfl⟩
      kept := fun h => absurd hx h
      cfg := fun h => absurd hx h
      made := fun h => absurd hx h
      opened := fun h => absurd hx h }
  | unassigned hx | codec _ hx | refused _ _ hx | admitted _ _ _ _ _ _ hx | rest hx =>
    exact .sameOpening hx rfl rfl rfl rfl
  | beginOpen w hd c _ hx decoded =>
    exact .same (by simp [hx]) rfl rfl rfl fun o ho => .inr ⟨w, hx, by cases ho; exact ⟨decoded, rfl⟩⟩
  | openLine o _ hx ho line => exact openStep_sessionMove hx ho (hinv.opening o ho) line
  | engine _ hx _ move =>
    have e := move.sameOperation
    exact .sameOpening hx e.par e.cfg e.sessionValid e.opening
  | performed id ok rx hx => exact .sameOpening hx (by simp) (by simp) (by simp) (by simp)

end Sys2Proof.Machine

open Sys2Proof Sys2Proof.Machine in
/-- Settles O58, by cases on what the input does. -/
theorem sessionIsMadeByOpenAlone : Obligations.SessionIsMadeByOpenAlone := by
  intro s t hinv h
  obtain ⟨i, d, hmove⟩ := inputMove_of_step h
  obtain ⟨par, reset, kept, cfg, made, opened⟩ := hmove.sessionMove (hinv.afterInput i d)
  exact ⟨par, reset, fun hx => ⟨kept hx, cfg hx, made hx, opened hx⟩⟩
end

section
/-! PROOF. The machine after reset (R32). -/

namespace Sys2Proof.Machine

/-- The parameters after reset are well formed, whatever the constants without a value are (R5, R71). -/
theorem resetParams_wf : resetParams.wf = true := by
  have hdepth : 1 ≤ resetParams.maxDepth := Nat.le_add_left 1 _
  have htables : resetParams.families.all FamilyTable.wf = true := by decide +kernel
  have htags : (resetParams.families.map (·.tag)).Nodup := by decide
  simp only [Params.wf, hdepth, htables, htags, decide_true, Bool.and_self]

theorem inv_reset : Inv State.reset where
  par := resetParams_wf
  frameLen := List.length_replicate
  idsLen := List.length_replicate
  pc := rfl
  session := nofun
  opening := nofun
  unassigned := nofun
  flight h := absurd rfl h
  transport := ⟨List.nodup_nil, nofun⟩
  held h := absurd rfl h
  rxLen h := absurd rfl h

theorem perfInv_reset : PerfInv State.reset where
  once _ := Nat.zero_le _
  pending := nofun
  unborn _ _ := rfl
  held := nofun

/-- Without a session an operation is answered `NoSession` (R142 A1). -/
theorem admission_noSession {s : State} (h : s.sessionValid = false) (op : HostOp) (m : Mode) (b : Bool)
    (ws : List RegisterWord) (l : Bool) : admission op m b ws l s = .next (refuseOp op .noSession s) := by
  simp [admission, h]

theorem result_of_admission_noSession {s t : State} (h : s.sessionValid = false) {op : HostOp} {m : Mode} {b : Bool}
    {ws : List RegisterWord} {l : Bool} (ha : admission op m b ws l s = .next t) : t.result = .err .noSession := by
  rw [admission_noSession h] at ha
  cases ha
  rfl

theorem exec_noSession {s : State} (hv : s.sessionValid = false) :
    (∀ w t, exec (.hostWrite w) s = .next t → t.result = .err .noSession) ∧
    (∀ ws l t, exec (.hostWriteBatch ws l) s = .next t → t.result = .err .noSession) ∧
    (∀ w t, exec (.hostRead w) s = .next t → t.result = .err .noSession) :=
  ⟨fun _ _ h => result_of_admission_noSession hv h, fun _ _ _ h => result_of_admission_noSession hv h,
    fun _ _ h => result_of_admission_noSession hv h⟩

/-- No move has anything to do on the machine after reset (R32). -/
theorem envStep_reset (m : EnvMove) : envStep m State.reset = .next State.reset := by
  cases m with
  | run => rfl
  | perf id ok rx => exact congrArg Host.Outcome.next (perform_absent (fun _ h => absurd h List.not_mem_nil) ok rx)
  | expire p => rfl

end Sys2Proof.Machine

open Sys2Proof Sys2Proof.Machine in
/-- Settles O52: nothing is in flight, there is no session, the transport holds nothing and the trace is empty. -/
theorem invariantsHoldAtReset : Obligations.InvariantsHoldAtReset :=
  ⟨inv_reset, fun h => absurd rfl h, perfInv_reset, fun _ => ⟨nofun, nofun⟩, nofun, fun _ => Nat.zero_le _⟩

open Sys2Proof Sys2Proof.Machine in
/-- Settles O60: the registers by their reset values, the moves and the answers by their lemmas. -/
theorem resetStateIsSilent : Obligations.ResetStateIsSilent :=
  ⟨rfl, rfl, rfl, rfl, rfl, rfl, rfl, envStep_reset, exec_noSession rfl⟩
end

section
/-! PROOF. The byte order of a frame and the bit order on the wire, by the frame's last byte (R47, R48). -/

namespace Sys2Proof

/-- The last byte of a frame is its low eight bits, and the bytes before it are those of the rest (R47). -/
theorem frameBytes_succ (n f : Nat) :
    frameBytes (8 * (n + 1)) f = frameBytes (8 * n) (f / 256) ++ [BitVec.ofNat 8 f] := by
  have hlen : 8 * (n + 1) / 8 = n + 1 := by omega
  have hlen' : 8 * n / 8 = n := by omega
  unfold frameBytes
  rw [hlen, hlen', List.range_succ, List.map_append]
  congr 1
  · refine List.map_congr_left fun k hk => ?_
    have hk : k < n := List.mem_range.mp hk
    have hshift : 8 * (n + 1) - 8 - 8 * k = 8 + (8 * n - 8 - 8 * k) := by omega
    rw [hshift, Nat.shiftRight_add, Nat.shiftRight_eq_div_pow f 8]
  · have hshift : 8 * (n + 1) - 8 - 8 * n = 0 := by omega
    simp [hshift]

/-- Byte `k` of a frame is the field of eight bits at its place (R47). -/
theorem frameBytes_getElem? {W k : Nat} (f : Nat) (hk : k < W / 8) :
    (frameBytes W f)[k]? = some (BitVec.ofNat 8 (fieldOf f (W - 8 - 8 * k) 8)) := by
  have hmod (x : Nat) : BitVec.ofNat 8 (x % 2 ^ 8) = BitVec.ofNat 8 x := BitVec.eq_of_toNat_eq (by simp)
  rw [fieldOf, hmod]
  simp [frameBytes, hk]

theorem frameOfBytes_append (b : List Byte) (x : Byte) :
    frameOfBytes (b ++ [x]) = frameOfBytes b * 256 + x.toNat := by
  simp [frameOfBytes, List.foldl_append]

theorem frameOfBytes_frameBytes : ∀ (n : Nat) {f : Nat}, f < 2 ^ (8 * n) → frameOfBytes (frameBytes (8 * n) f) = f
  | 0, f, h => by
    obtain rfl : f = 0 := by simpa using h
    rfl
  | n + 1, f, h => by
    have hdiv : f / 256 < 2 ^ (8 * n) := by
      rw [Nat.div_lt_iff_lt_mul (by decide)]
      calc f < 2 ^ (8 * (n + 1)) := h
        _ = 2 ^ (8 * n) * 256 := by rw [Nat.mul_succ, pow_add]; rfl
    rw [frameBytes_succ, frameOfBytes_append, frameOfBytes_frameBytes n hdiv]
    have := Nat.div_add_mod f 256
    simp only [BitVec.toNat_ofNat]
    omega

theorem frameBytes_frameOfBytes (b : List Byte) : frameBytes (8 * b.length) (frameOfBytes b) = b := by
  induction b using List.reverseRecOn with
  | nil => rfl
  | append_singleton b x ih =>
    have hx := x.isLt
    have hdiv : (frameOfBytes b * 256 + x.toNat) / 256 = frameOfBytes b := by omega
    have hlast : BitVec.ofNat 8 (frameOfBytes b * 256 + x.toNat) = x :=
      BitVec.eq_of_toNat_eq (by simp only [BitVec.toNat_ofNat]; omega)
    rw [frameOfBytes_append, List.length_append, List.length_singleton, frameBytes_succ, hdiv, hlast, ih]

/-- The bits of a frame's last byte, as they leave (R48). -/
theorem byteBits_ofNat (f : Nat) : byteBits (BitVec.ofNat 8 f) = (List.range 8).map fun i => f.testBit (7 - i) :=
  List.map_congr_left fun i _ => by
    have h7 : 7 - i < 8 := by omega
    rw [BitVec.getLsbD_ofNat]
    simp [h7]

theorem wireBits_frameBytes : ∀ n f : Nat,
    wireBits (frameBytes (8 * n) f) = (List.range (8 * n)).map fun i => f.testBit (8 * n - 1 - i)
  | 0, _ => rfl
  | n + 1, f => by
    have hbefore : (List.range (8 * n)).map (fun i => (f / 256).testBit (8 * n - 1 - i)) =
        (List.range (8 * n)).map fun i => f.testBit (8 * (n + 1) - 1 - i) :=
      List.map_congr_left fun i hi => by
        have hi : i < 8 * n := List.mem_range.mp hi
        have hbit : 8 * n - 1 - i + 8 = 8 * (n + 1) - 1 - i := by omega
        rw [← hbit, show 256 = 2 ^ 8 from rfl, Nat.testBit_div_two_pow]
    have hlast : (List.range 8).map (fun i => f.testBit (7 - i)) =
        (List.range 8).map fun i => f.testBit (8 * (n + 1) - 1 - (8 * n + i)) :=
      List.map_congr_left fun i _ => by
        have hbit : 8 * (n + 1) - 1 - (8 * n + i) = 7 - i := by omega
        rw [hbit]
    have hwire : wireBits (frameBytes (8 * (n + 1)) f) =
        wireBits (frameBytes (8 * n) (f / 256)) ++ byteBits (BitVec.ofNat 8 f) := by
      rw [frameBytes_succ]
      simp [wireBits]
    rw [hwire, wireBits_frameBytes n, byteBits_ofNat, hbefore, hlast, Nat.mul_succ, List.range_add, List.map_append,
      List.map_map]
    rfl

end Sys2Proof

open Sys2Proof in
/-- Settles O10, by induction on the bytes of the frame. -/
theorem frameBytesMostSignificantFirst : Obligations.FrameBytesMostSignificantFirst := by
  refine ⟨fun W f _ => ⟨Machine.frameBytes_length W f, fun k hk => frameBytes_getElem? f hk⟩, fun W f hW hf => ?_,
    frameBytes_frameOfBytes⟩
  obtain ⟨n, rfl⟩ := Nat.dvd_of_mod_eq_zero hW
  exact frameOfBytes_frameBytes n hf

open Sys2Proof in
/-- Settles O11, by induction on the bytes of the frame. -/
theorem wireOrderIsMostSignificantFirst : Obligations.WireOrderIsMostSignificantFirst := by
  intro W f hW
  obtain ⟨n, rfl⟩ := Nat.dvd_of_mod_eq_zero hW
  exact wireBits_frameBytes n f
end

section
/-! PROOF. The history of the transport (R42, R44, R61): what each thing a step can do to it keeps. -/

namespace Sys2Proof.Machine

theorem perfCount_append (id : Nat) (tr es : List Event) :
    perfCount id (tr ++ es) = perfCount id tr + perfCount id es :=
  List.countP_append

theorem subIds_append (tr es : List Event) : subIds (tr ++ es) = subIds tr ++ subIds es :=
  List.filterMap_append

/-- An event of another port than the transport's is no performance. -/
theorem perfCount_of_quiet (id : Nat) {es : List Event} (h : ∀ e ∈ es, isTransportEvent e = false) :
    perfCount id es = 0 :=
  List.countP_eq_zero.mpr fun e he => by
    have := h e he
    cases e <;> simp_all [isPerfOf, isTransportEvent]

/-- An event of another port than the transport's is no submission. -/
theorem subIds_of_quiet {es : List Event} (h : ∀ e ∈ es, isTransportEvent e = false) : subIds es = [] :=
  List.filterMap_eq_nil_iff.mpr fun e he => by
    have := h e he
    cases e <;> simp_all [isTransportEvent]

/-- A performance is counted for its own transfer alone. -/
theorem perfCount_perf (id j : Nat) (ok : Bool) : perfCount id [.perf j ok] = if j = id then 1 else 0 := by
  by_cases h : j = id <;> simp [perfCount, isPerfOf, h]

/-- Events none of which is a performance, after which the transport holds no more than before but for fresh
transfers. -/
theorem PerfInv.quiet {s t : State} {es : List Event} (h : PerfInv s) (htr : t.trace = s.trace ++ es)
    (hq : ∀ id, perfCount id es = 0) (hn : s.transport.nextId ≤ t.transport.nextId)
    (ho : ∀ x ∈ t.transport.outstanding, x ∈ s.transport.outstanding ∨ x.id = s.transport.nextId)
    (hc : ∀ c ∈ t.transport.completions, c ∈ s.transport.completions) : PerfInv t := by
  have hcount (id : Nat) : perfCount id t.trace = perfCount id s.trace := by
    rw [htr, perfCount_append, hq, Nat.add_zero]
  refine ⟨fun id => hcount id ▸ h.once id, fun x hx => ?_, fun id hid => ?_, fun c hcm => ?_⟩
  · rw [hcount]
    rcases ho x hx with hx | hx
    · exact h.pending x hx
    · exact h.unborn x.id hx.ge
  · rw [hcount]
    exact h.unborn id (hn.trans hid)
  · rw [htr]
    exact List.mem_append_left _ (h.held c (hc c hcm))

/-- A performance of an outstanding transfer is its first (R61). -/
theorem PerfInv.performed {s t : State} (h : PerfInv s) (hT : TransportOk s.transport) {x : Transfer} {ok : Bool}
    {rx : Nat} (hx : x ∈ s.transport.outstanding) (htp : t.transport = completeTransfer s.transport x ok rx)
    (htr : t.trace = s.trace ++ [.perf x.id ok]) : PerfInv t := by
  have hcount (id : Nat) : perfCount id t.trace = perfCount id s.trace + if x.id = id then 1 else 0 := by
    rw [htr, perfCount_append, perfCount_perf]
  have hother {id : Nat} (hid : x.id ≠ id) : perfCount id t.trace = perfCount id s.trace := by
    rw [hcount, if_neg hid, Nat.add_zero]
  refine ⟨fun id => ?_, fun y hy => ?_, fun id hid => ?_, fun c hc => ?_⟩
  · by_cases hid : x.id = id
    · rw [hcount, if_pos hid, ← hid, h.pending x hx]
    · exact hother hid ▸ h.once id
  · rw [htp] at hy
    obtain ⟨hy, hne⟩ := List.mem_filter.mp hy
    rw [hother fun hid => by simp [hid] at hne]
    exact h.pending y hy
  · rw [htp] at hid
    have hold : x.id < s.transport.nextId := hT.older x.id (List.mem_append_left _ (List.mem_map_of_mem hx))
    rw [hother (hold.trans_le hid).ne]
    exact h.unborn id hid
  · rw [htp] at hc
    rw [htr]
    rcases List.mem_append.mp hc with hc | hc
    · exact List.mem_append_left _ (h.held c hc)
    · rw [List.mem_singleton.mp hc]
      exact List.mem_append_right _ (List.mem_singleton_self _)

theorem PortStep.perfInv {s t : State} (h : PortStep s t) (hT : TransportOk s.transport) (hp : PerfInv s) :
    PerfInv t := by
  cases h with
  | other es trace same quiet =>
    exact hp.quiet trace (fun id => perfCount_of_quiet id quiet) (same ▸ le_refl _)
      (fun x hx => .inl (same ▸ hx)) fun c hc => same ▸ hc
  | submitted hd f n _ transport trace =>
    refine hp.quiet trace (fun _ => rfl) (by simp [transport, enqueue]) (fun x hx => ?_) fun c hc => ?_
    · rw [transport] at hx
      exact (List.mem_append.mp hx).imp_right fun hx => by rw [List.mem_singleton.mp hx]
    · simpa [transport, enqueue] using hc
  | awaited ids a transport trace =>
    refine hp.quiet trace (fun _ => rfl) (by simp [transport, clearCompletions]) (fun x hx => ?_) fun c hc => ?_
    · exact .inl (by simpa [transport, clearCompletions] using hx)
    · rw [transport] at hc
      exact List.mem_of_mem_filter hc
  | performed x ok rx held transport trace => exact hp.performed hT held transport trace

theorem PortStep.idInv {s t : State} (h : PortStep s t) (hi : IdInv s) : IdInv t := by
  intro id hid
  cases h with
  | other es trace same quiet =>
    rw [trace, subIds_append, subIds_of_quiet quiet, List.append_nil] at hid
    rw [same]
    exact hi id hid
  | submitted hd f n _ transport trace =>
    rw [trace, subIds_append] at hid
    rw [transport]
    rcases List.mem_append.mp hid with hid | hid
    · exact Nat.lt_succ_of_lt (hi id hid)
    · obtain rfl : id = s.transport.nextId := List.mem_singleton.mp hid
      exact Nat.lt_succ_self _
  | awaited ids a transport trace =>
    rw [trace, subIds_append] at hid
    rw [transport]
    exact hi id (by simpa [subIds] using hid)
  | performed x ok rx _ transport trace =>
    rw [trace, subIds_append] at hid
    rw [transport]
    exact hi id (by simpa [subIds] using hid)

/-- A transport that holds fewer transfers keeps to its depths. -/
theorem DepthInv.of_sublist {s t : State} (h : DepthInv s)
    (ho : t.transport.outstanding.Sublist s.transport.outstanding) (hd : t.transport.depths = s.transport.depths) :
    DepthInv t := fun hd' => by
  have hdepth : queueDepth t.transport hd' = queueDepth s.transport hd' := by rw [queueDepth, queueDepth, hd]
  exact hdepth ▸ (ho.filter _).length_le.trans (h hd')

/-- An accepted submission adds one to the outstanding transfers of its handle alone (R42). -/
theorem outstandingOf_enqueue (t : Transport) (hd f n h : Nat) :
    outstandingOf (enqueue t hd f n) h = outstandingOf t h + if hd = h then 1 else 0 := by
  by_cases hh : hd = h <;> simp [outstandingOf, enqueue, List.filter_append, hh]

theorem PortStep.depthInv {s t : State} (h : PortStep s t) (hi : DepthInv s) : DepthInv t := by
  cases h with
  | other es trace same quiet => exact hi.of_sublist (same ▸ .refl _) (same ▸ rfl)
  | submitted hd f n room transport trace =>
    intro h
    have hdepth : queueDepth (enqueue s.transport hd f n) h = queueDepth s.transport h := rfl
    rw [transport, outstandingOf_enqueue, hdepth]
    split
    · rename_i hh
      subst hh
      simpa [queueFull] using room
    · exact hi h
  | awaited ids a transport => exact hi.of_sublist (transport ▸ .refl _) (transport ▸ rfl)
  | performed x ok rx _ transport => exact hi.of_sublist (transport ▸ List.filter_sublist) (transport ▸ rfl)

/-- An answer `Ok` comes after the successful performance of every transfer it names (R43, R56). -/
theorem PerfInv.performed_of_completions {s : State} (h : PerfInv s) {ids : List Nat} {cs : List Completion}
    (hcs : completionsOf? s.transport ids = some cs) (hok : ∀ c ∈ cs, c.ok = true) :
    ∀ id ∈ ids, .perf id true ∈ s.trace := by
  obtain ⟨hids, hmem⟩ := completionsOf?_some hcs
  intro id hid
  rw [← hids] at hid
  obtain ⟨c, hc, rfl⟩ := List.mem_map.mp hid
  exact hok c hc ▸ h.held c (hmem c hc)

/-- A submission's event carries the next fresh id (R42). -/
theorem PortStep.sub_id {s t : State} (h : PortStep s t) {id f n : Nat}
    (ht : t.trace = s.trace ++ [.sub id f n]) : id = s.transport.nextId := by
  cases h with
  | other es trace _ quiet =>
    rw [ht] at trace
    rw [← List.append_cancel_left trace] at quiet
    exact absurd (quiet _ (List.mem_singleton_self _)) nofun
  | submitted _ _ _ _ _ trace =>
    rw [ht] at trace
    cases List.append_cancel_left trace
    rfl
  | awaited _ _ _ trace | performed _ _ _ _ _ trace =>
    rw [ht] at trace
    cases List.append_cancel_left trace

/-- Where the wait answers `Ok`, every transfer it names has completed with success (R43). -/
theorem PortStep.await_ok {s t : State} (h : PortStep s t) {ids : List Nat}
    (ht : t.trace = s.trace ++ [.await ids .ok]) :
    ∃ cs, completionsOf? s.transport ids = some cs ∧ ∀ c ∈ cs, c.ok = true := by
  cases h with
  | other es trace _ quiet =>
    rw [ht] at trace
    rw [← List.append_cancel_left trace] at quiet
    exact absurd (quiet _ (List.mem_singleton_self _)) nofun
  | awaited _ _ _ trace answer =>
    rw [ht] at trace
    cases List.append_cancel_left trace
    exact answer rfl
  | submitted _ _ _ _ _ trace | performed _ _ _ _ _ trace =>
    rw [ht] at trace
    cases List.append_cancel_left trace

end Sys2Proof.Machine

open Sys2Proof Sys2Proof.Machine in
/-- Settles O56, by cases on what the step does to the transport and to the trace. -/
theorem transportHistoryIsKept : Obligations.TransportHistoryIsKept := by
  intro s t hinv h
  have hport := portStep_of_step h
  exact ⟨hport.perfInv hinv.transport, hport.idInv, hport.depthInv, step_adds_one_event h⟩

open Sys2Proof Sys2Proof.Machine in
/-- Settles O57: a submission takes the fresh id, and the wait answers `Ok` for completions that all happened. -/
theorem idsAreFreshAndOkMeansPerformed : Obligations.IdsAreFreshAndOkMeansPerformed := by
  intro s t _ hids hperf h
  have hport := portStep_of_step h
  refine ⟨fun id f n ht hold => ?_, fun ids ht => ?_⟩
  · exact absurd (hids id hold) (hport.sub_id ht ▸ lt_irrefl _)
  · obtain ⟨cs, hcs, hok⟩ := hport.await_ok ht
    exact hperf.performed_of_completions hcs hok
end

section
/-! PROOF. The return of the wait (R43, R156, W1 of R143). -/

namespace Sys2Proof.Machine

/-- A run step of a block with no OPEN in progress is the engine's (R53). -/
theorem step_run {s : State} {rest : List Input} (h : s.inbox = .move .run :: rest) (ho : s.opening = none) :
    step s = engineStep { s with inbox := rest } := by
  rw [step_move h]
  simp [envStep, blockStep, ho]

theorem Inv.inFlight_of_w1 {s : State} (h : Inv s) (hpc : s.pc = .w1) : s.fsm ≠ .idle := by
  rw [pcFits_awaiting h.pc (.inl hpc)]
  nofun

theorem engineStep_w1 {s : State} (hs : s.fsm ≠ .idle) (hpc : s.pc = .w1) :
    engineStep s = .next (stepW1 s) := by
  simp [engineStep, hs, hpc]

/-- Line W1 where every transfer named has completed. -/
theorem stepW1_of_complete {s : State} {cs : List Completion} (hn : s.subIdx ≠ 0)
    (hcs : completionsOf? s.transport (awaitedIds s) = some cs) :
    stepW1 s = { takeRx (awaitAnswer cs) cs (awaitReturns (awaitAnswer cs) s) with pc := .w2 } := by
  simp [stepW1, hn, hcs]

/-- What an answer of the wait records, by mode (R199): `BatchPartialFailure` is a batch's `TransportFailure`. -/
theorem awaitError_eq (m : Mode) :
    awaitError m = if m = .direct then .transportFailure else .batchPartialFailure := by
  cases m <;> rfl

/-- The wait's answer on success: the event, the completions, and `RX` for a READ (R156). -/
theorem takeRx_awaitReturns_ok (c : Completion) (cs : List Completion) (s : State) :
    takeRx .ok (c :: cs) (awaitReturns .ok s) = { s with
      transport := clearCompletions s.transport (awaitedIds s), trace := s.trace ++ [.await (awaitedIds s) .ok]
      rx := if s.rdback then c.rx else s.rx } := by
  cases h : s.rdback <;> simp [takeRx, awaitReturns, recordAwait, emit, h]

/-- The wait's answer where a transfer failed: the event, the completions, and the first error (R16, R199). -/
theorem takeRx_awaitReturns_failure (cs : List Completion) (s : State) :
    takeRx .transportFailure cs (awaitReturns .transportFailure s) = { s with
      transport := clearCompletions s.transport (awaitedIds s)
      trace := s.trace ++ [.await (awaitedIds s) .transportFailure], failed := true
      err := if s.failed then s.err else awaitError s.mode } := by
  cases h : s.failed <;> simp [takeRx, awaitReturns, recordAwait, recordError, emit, h]

end Sys2Proof.Machine

open Sys2Proof Sys2Proof.Machine in
/-- Settles O32: line W1 with all completions there, by the wait's two answers. -/
theorem awaitAnswersForTheWholeSet : Obligations.AwaitAnswersForTheWholeSet := by
  intro s c cs rest hinv hbox hpc hn hcs
  have hs := hinv.inFlight_of_w1 hpc
  have hstep : step s = .next (stepW1 { s with inbox := rest }) := by
    rw [step_run hbox (hinv.opening_eq_none hs)]
    exact engineStep_w1 hs hpc
  have hw : stepW1 { s with inbox := rest } = _ := stepW1_of_complete hn hcs
  have hids : awaitedIds { s with inbox := rest } = awaitedIds s := rfl
  rw [hstep, hw]
  cases hok : (c :: cs).all (·.ok) with
  | true =>
    rw [awaitAnswer, if_pos hok, takeRx_awaitReturns_ok]
    simp [clearCompletions, hids]
  | false =>
    rw [awaitAnswer, if_neg (by simp [hok]), takeRx_awaitReturns_failure, awaitError_eq]
    simp [clearCompletions, hids]
end

section
/-! PROOF. Every step keeps the invariant of the operation's trace (R54, R56, R58, R130, R161 to R163): what a step adds
to the trace, what that does to `FlightTrace`, and then each line of the engine. -/

namespace Sys2Proof.Machine

/-! ### Projections of a trace -/

theorem subFrames_append (tr es : List Event) : subFrames (tr ++ es) = subFrames tr ++ subFrames es :=
  List.filterMap_append

theorem latchPulses_append (tr es : List Event) : latchPulses (tr ++ es) = latchPulses tr + latchPulses es :=
  List.countP_append

theorem resetPulses_append (tr es : List Event) : resetPulses (tr ++ es) = resetPulses tr + resetPulses es :=
  List.countP_append

/-- A latch pulse is an event of the engine. -/
theorem latchPulses_filter (tr : List Event) : latchPulses (tr.filter isEngineEvent) = latchPulses tr := by
  have himp (e : Event) : (isLatchPulse e && isEngineEvent e) = isLatchPulse e := by
    cases e <;> simp [isEngineEvent, isLatchPulse]
  simp [latchPulses, List.countP_filter, himp]

theorem forall_mem_zipWith_sub {T : FamilyTable} {p : Event → Prop} (hp : ∀ id f, p (.sub id f T.W)) :
    ∀ (ids fs : List Nat), ∀ e ∈ List.zipWith (fun id f => Event.sub id f T.W) ids fs, p e
  | [], _ => by simp
  | _ :: _, [] => by simp
  | id :: ids, f :: fs => by
    simpa using ⟨hp id f, forall_mem_zipWith_sub hp ids fs⟩

/-- Only the last event of an operation that has pulsed the latch is a pulse (R149). -/
theorem latchPulses_expectedEvents (T : FamilyTable) {s : State} (h : s.fsm ≠ .latching) :
    latchPulses (expectedEvents T s) = 0 := by
  have hsubs := forall_mem_zipWith_sub (T := T) (p := fun e => ¬ isLatchPulse e = true)
    (fun _ _ => by simp [isLatchPulse]) (s.ids.take s.subIdx) (s.frame.take s.subIdx)
  refine List.countP_eq_zero.mpr fun e he => ?_
  simp only [expectedEvents, List.mem_append, h, false_and, if_false, List.not_mem_nil, or_false] at he
  rcases he with ((he | he) | he) | he
  · split at he <;> simp_all [isLatchPulse]
  · exact hsubs e he
  · split at he <;> simp_all [isLatchPulse]
  · split at he <;> simp_all [isLatchPulse]

/-- An operation whose error is recorded and that is not at its latch pulse is not confirmed (R127). -/
theorem not_confirmedSoFar {s : State} (hf : s.failed = true) (hl : s.fsm ≠ .latching) : ¬ confirmedSoFar s := by
  simp [confirmedSoFar, hf, hl]

/-- Before the latch pulse there is none in the operation's trace (R130, R163). -/
theorem FlightTrace.latchPulses_eq_zero {s : State} (h : FlightTrace s) (hT : ∃ T, sessionTable? s = some T)
    (hl : s.fsm ≠ .latching) : latchPulses (opEvents s) = 0 := by
  by_cases hc : confirmedSoFar s
  · obtain ⟨T, hT⟩ := hT
    calc latchPulses (opEvents s) = latchPulses (engineEvents s) := (latchPulses_filter _).symm
      _ = latchPulses (expectedEvents T s) := by rw [h.success hc T hT]
      _ = 0 := latchPulses_expectedEvents T hl
  · exact h.failure hc

/-! ### What a step adds to the trace -/

/-- A step of an operation in flight that adds the events `es`, and what they are to the registers after it. -/
structure TraceMove (s t : State) (es : List Event) : Prop where
  trace     : t.trace = s.trace ++ es
  start     : t.opStart = s.opStart
  table     : sessionTable? t = sessionTable? s
  frames    : t.frame.take t.subIdx = s.frame.take s.subIdx ++ subFrames es
  transfers : awaitedIds t = awaitedIds s ++ subIds es
  success   : confirmedSoFar t → confirmedSoFar s ∧
    ∀ T, sessionTable? s = some T → expectedEvents T t = expectedEvents T s ++ es.filter isEngineEvent
  performed : confirmedSoFar t → pastW1 t.pc = true → t.subIdx ≠ 0 →
    (pastW1 s.pc = true ∧ t.subIdx = s.subIdx ∧ t.ids = s.ids) ∨
    (es = [.await (awaitedIds t) .ok] ∧ ∀ id ∈ awaitedIds t, .perf id true ∈ s.trace)
  failure   : ¬ confirmedSoFar t → (¬ confirmedSoFar s ∨ s.fsm ≠ .latching) ∧ latchPulses es = 0
  noReset   : resetPulses es = 0

theorem TraceMove.flightTrace {s t : State} {es : List Event} (h : TraceMove s t es) (hs : FlightTrace s)
    (hT : ∃ T, sessionTable? s = some T) : FlightTrace t := by
  have hev : opEvents t = opEvents s ++ es := by
    rw [opEvents, opEvents, h.trace, h.start, List.drop_append_of_le_length hs.start]
  refine ⟨?_, ?_, ?_, fun hc T hTt => ?_, fun hc hp hn => ?_, fun hc => ?_, ?_⟩
  · rw [h.trace, h.start, List.length_append]
    exact hs.start.trans (Nat.le_add_right _ _)
  · rw [hev, subFrames_append, hs.frames, h.frames]
  · rw [hev, subIds_append, hs.transfers, h.transfers]
  · obtain ⟨hcs, hexp⟩ := h.success hc
    have hTs : sessionTable? s = some T := h.table ▸ hTt
    rw [engineEvents, hev, List.filter_append, hexp T hTs, ← hs.success hcs T hTs, engineEvents]
  · rcases h.performed hc hp hn with ⟨hps, hsub, hids⟩ | ⟨rfl, hperf⟩
    · obtain ⟨before, after, htr, hall⟩ := hs.performed (h.success hc).1 hps (hsub ▸ hn)
      have hawait : awaitedIds t = awaitedIds s := by rw [awaitedIds, awaitedIds, hsub, hids]
      exact ⟨before, after ++ es, by rw [h.trace, htr, hawait]; simp, hawait ▸ hall⟩
    · exact ⟨s.trace, [], h.trace, hperf⟩
  · obtain ⟨hbefore, hes⟩ := h.failure hc
    rw [hev, latchPulses_append, hes, Nat.add_zero]
    rcases hbefore with hcs | hl
    · exact hs.failure hcs
    · exact hs.latchPulses_eq_zero hT hl
  · rw [hev, resetPulses_append, hs.noReset, h.noReset]

/-- An event that is neither a submission nor a pulse. -/
def isPlainEvent : Event → Bool
  | .sub _ _ _ => false
  | .pulse _ _ _ => false
  | _ => true

theorem plain_projections {es : List Event} (h : ∀ e ∈ es, isPlainEvent e = true) :
    subFrames es = [] ∧ subIds es = [] ∧ latchPulses es = 0 ∧ resetPulses es = 0 := by
  refine ⟨List.filterMap_eq_nil_iff.mpr ?_, List.filterMap_eq_nil_iff.mpr ?_, List.countP_eq_zero.mpr ?_,
    List.countP_eq_zero.mpr ?_⟩
  all_goals
    intro e he
    have := h e he
    cases e <;> simp_all [isPlainEvent, isLatchPulse, isResetPulse]

/-- The slots submitted so far, the session's family and the operation's place in the trace are as they were. -/
structure SameSlots (s t : State) : Prop where
  start  : t.opStart = s.opStart := by simp
  table  : sessionTable? t = sessionTable? s := by simp [sessionTable?]
  subIdx : t.subIdx = s.subIdx := by simp
  frame  : t.frame = s.frame := by simp
  ids    : t.ids = s.ids := by simp

theorem SameSlots.awaitedIds {s t : State} (h : SameSlots s t) : awaitedIds t = awaitedIds s := by
  rw [Machine.awaitedIds, Machine.awaitedIds, h.subIdx, h.ids]

/-- A step that adds plain events and leaves the slots, after which the engine has passed W1 only if it had before. -/
theorem TraceMove.plain {s t : State} {es : List Event} (e : SameSlots s t) (trace : t.trace = s.trace ++ es)
    (plain : ∀ e ∈ es, isPlainEvent e = true)
    (success : confirmedSoFar t → confirmedSoFar s ∧
      ∀ T, sessionTable? s = some T → expectedEvents T t = expectedEvents T s ++ es.filter isEngineEvent)
    (pastW1 : confirmedSoFar t → pastW1 t.pc = true → t.subIdx ≠ 0 → pastW1 s.pc = true)
    (failure : ¬ confirmedSoFar t → ¬ confirmedSoFar s ∨ s.fsm ≠ .latching) : TraceMove s t es := by
  obtain ⟨hframes, hids, hlatch, hreset⟩ := plain_projections plain
  exact {
    trace := trace, start := e.start, table := e.table, success := success, noReset := hreset
    frames := by rw [hframes, List.append_nil, e.frame, e.subIdx]
    transfers := by rw [hids, List.append_nil, e.awaitedIds]
    performed := fun hc hp hn => .inl ⟨pastW1 hc hp hn, e.subIdx, e.ids⟩
    failure := fun hc => ⟨failure hc, hlatch⟩ }

/-- A step that adds plain events and leaves the operation with an error recorded (R163). -/
theorem TraceMove.failing {s t : State} {es : List Event} (e : SameSlots s t) (trace : t.trace = s.trace ++ es)
    (plain : ∀ e ∈ es, isPlainEvent e = true) (failed : t.failed = true) (after : t.fsm ≠ .latching)
    (before : s.fsm ≠ .latching) : TraceMove s t es :=
  have hc := not_confirmedSoFar failed after
  .plain e trace plain (fun h => absurd h hc) (fun h => absurd h hc) fun _ => .inr before

/-- A step that adds no engine event and no submission, and leaves every register the operation's trace speaks of. -/
theorem TraceMove.outside {s t : State} {es : List Event} (e : SameSlots s t) (trace : t.trace = s.trace ++ es)
    (plain : ∀ e ∈ es, isPlainEvent e = true) (outside : es.filter isEngineEvent = []) (fsm : t.fsm = s.fsm)
    (mode : t.mode = s.mode) (pc : t.pc = s.pc) (res : t.res = s.res) (failed : t.failed = s.failed)
    (cfg : t.cfg = s.cfg) : TraceMove s t es := by
  have hc : confirmedSoFar t ↔ confirmedSoFar s := by rw [confirmedSoFar, confirmedSoFar, failed, fsm]
  have hexp (T : FamilyTable) : expectedEvents T t = expectedEvents T s := by
    simp only [expectedEvents, e.awaitedIds, e.subIdx, e.frame, e.ids, fsm, mode, pc, res, cfg]
  exact .plain e trace plain (fun h => ⟨hc.mp h, fun T _ => by rw [outside, hexp, List.append_nil]⟩)
    (fun _ hp _ => pc ▸ hp) fun h => .inl (h ∘ hc.mpr)

/-! ### The lines of the engine -/

/-- R71 (f), R181: a session's SYNC is assigned. -/
theorem Inv.sync_assigned {s : State} (h : Inv s) (hv : s.sessionValid = true) :
    (s.cfg.pins.ctl .sync).isSome = true := by
  obtain ⟨T, hT⟩ := h.table hv
  have hwf := wf_of_table? h.par hT
  have hpins := (h.session hv).pins T hT
  simp only [FamilyTable.wf, FamilyTable.rowsOk, Bool.and_eq_true, List.contains_iff_mem] at hwf
  simp only [pinMissing, List.any_eq_false] at hpins
  have hsync : s.cfg.pins.get .sync ≠ none := by simpa using hpins .sync hwf.2.2
  exact Option.isSome_iff_ne_none.mpr hsync

/-- The lines that only choose where the engine goes on lead past W1 from there, or where nothing was submitted. -/
theorem Goes.pastW1 {s : State} {f : Fsm} {p : EngineLine} {r : OpResult} (h : Goes s f p r)
    (hw : pastW1 p = true) (hn : s.subIdx ≠ 0) : pastW1 s.pc = true := by
  cases h with
  | s1 | s3 | failing => cases hw
  | noWait _ empty => exact absurd empty hn
  | w2 hpc | confirmed hpc | latching hpc | unlatched hpc | decoded _ hpc | c2 hpc => rw [hpc]; rfl

/-- No such line leaves `Latching` (R160). -/
theorem Goes.latching_of_latching {s : State} {f : Fsm} {p : EngineLine} {r : OpResult} (h : Goes s f p r)
    (hp : pcFits s.fsm s.pc = true) (hf : s.fsm = .latching) : f = .latching := by
  cases h with
  | s1 | noWait | w2 | unlatched | decoded | c2 => exact hf
  | latching => rfl
  | s3 hpc | failing hpc | confirmed hpc => simp [hf, hpc, pcFits] at hp

section

variable {s : State} (hs : FlightOk s) (hp : pcFits s.fsm s.pc = true)
include hs hp

theorem Goes.confirmedSoFar {f : Fsm} {p : EngineLine} {r : OpResult} (h : Goes s f p r)
    (hc : confirmedSoFar { s with fsm := f, pc := p, res := r }) : confirmedSoFar s := by
  cases h with
  | s1 | noWait | w2 | unlatched | decoded | c2 => exact hc
  | s3 => exact .inl (hc.resolve_right nofun)
  | failing _ failed => exact absurd hc (not_confirmedSoFar failed nofun)
  | confirmed _ clean => exact .inl clean
  | latching hpc => exact .inl (complete_of_c1 hs hp hpc).2.1

/-- Such a line adds nothing to what R143 lists for an operation so far confirmed. -/
theorem Goes.expectedEvents {f : Fsm} {p : EngineLine} {r : OpResult} (h : Goes s f p r) (T : FamilyTable)
    (hc : Machine.confirmedSoFar { s with fsm := f, pc := p, res := r }) :
    expectedEvents T { s with fsm := f, pc := p, res := r } = expectedEvents T s := by
  cases h with
  | s1 hpc mode =>
    have hf := pcFits_submitting hp (.inl hpc)
    simp [Machine.expectedEvents, Machine.pastW1, pastW2, hpc, mode, hf]
  | s3 hpc =>
    have hf := pcFits_submitting hp (.inr hpc)
    simp [Machine.expectedEvents, Machine.pastW1, pastW2, hpc, hf]
  | noWait hpc empty =>
    have hf := pcFits_awaiting hp (.inl hpc)
    simp [Machine.expectedEvents, Machine.pastW1, pastW2, hpc, hf, empty]
  | w2 hpc mode =>
    have hf := pcFits_awaiting hp (by simp [hpc])
    simp [Machine.expectedEvents, awaitedIds, Machine.pastW1, pastW2, hpc, hf, mode]
  | failing _ failed => exact absurd hc (not_confirmedSoFar failed nofun)
  | confirmed hpc =>
    have hf := pcFits_awaiting hp (by simp [hpc])
    simp [Machine.expectedEvents, awaitedIds, Machine.pastW1, pastW2, hpc, hf]
  | latching hpc | unlatched hpc =>
    have hf := pcFits_confirmed hp hpc
    simp [Machine.expectedEvents, awaitedIds, Machine.pastW1, pastW2, hpc, hf]
  | decoded T hpc read =>
    have hf : s.fsm ≠ .latching := fun hf => by simpa [hs.readback read.1] using hs.latching hf
    simp [Machine.expectedEvents, awaitedIds, Machine.pastW1, pastW2, hpc, hf]
  | c2 hpc => simp [Machine.expectedEvents, awaitedIds, Machine.pastW1, pastW2, hpc]

/-- A line of R143 that only chooses where the engine goes on. -/
theorem Goes.traceMove {f : Fsm} {p : EngineLine} {r : OpResult} (h : Goes s f p r) :
    TraceMove s { s with fsm := f, pc := p, res := r } [] :=
  .plain {} (List.append_nil _).symm (by simp)
    (fun hc => ⟨h.confirmedSoFar hs hp hc, fun T _ => by simp [h.expectedEvents hs hp T hc]⟩) (fun _ => h.pastW1)
    fun hc => .inr fun hf => hc (.inr (h.latching_of_latching hp hf))

/-- A call of SYNC adds its event, and where it fails the operation's error (R122, R123, R127). -/
theorem Calls.traceMove {v : Level} {p : EngineLine} (h : Calls s v p) (direct : s.mode = .direct)
    (assigned : (s.cfg.pins.ctl .sync).isSome = true) :
    ∃ es, TraceMove s { recordLine (setLine s.cfg.pins .sync v s) with pc := p } es := by
  have htrace := (setLine_assigned assigned v s).1
  have hf : s.fsm ≠ .latching := by
    cases h with
    | s1 hpc => simp [pcFits_submitting hp (.inl hpc)]
    | w2 hpc => simp [pcFits_awaiting hp (by simp [hpc])]
  cases hok : (setLine s.cfg.pins .sync v s).1 with
  | false =>
    rw [hok] at htrace
    exact ⟨[.line .sync v false], .failing {} (by simpa using htrace) (by simp [isPlainEvent])
      (by simp [recordLine_failed hok]) (by simpa using hf) hf⟩
  | true =>
    rw [hok] at htrace
    have hengine : [Event.line .sync v true].filter isEngineEvent = [.line .sync v true] := rfl
    have hconf : confirmedSoFar { recordLine (setLine s.cfg.pins .sync v s) with pc := p } ↔ confirmedSoFar s := by
      simp [confirmedSoFar, recordLine_ok hok]
    refine ⟨[.line .sync v true], .plain {} (by simpa using htrace) (by simp [isPlainEvent])
      (fun hc => ⟨hconf.mp hc, fun T _ => ?_⟩) (fun _ hw _ => ?_) fun _ => .inr hf⟩
    · cases h with
      | s1 hpc =>
        have hempty := (hs.fresh hpc).1
        simp [expectedEvents, pastW1, pastW2, hengine, hpc, hf, direct, hempty]
      | w2 hpc => simp [expectedEvents, awaitedIds, pastW1, pastW2, hengine, hpc, hf, direct]
    · cases h with
      | s1 => cases hw
      | w2 hpc => rw [hpc]; rfl

/-- A call of LINES_IDLE comes after a timeout, which has recorded an error (R126, R200). -/
theorem Idles.traceMove {r : CtlLine} {v : Level} {p : EngineLine} (h : Idles s r v p) :
    ∃ es, TraceMove s { (setLine s.cfg.pins r v s).2 with pc := p } es := by
  obtain ⟨hf, hfail⟩ : s.fsm ≠ .latching ∧ s.failed = true := by
    cases h with
    | sync hpc => exact ⟨by simp [pcFits_awaiting hp (by simp [hpc])], hs.timedOut (.inl hpc)⟩
    | latch hpc => exact ⟨by simp [pcFits_awaiting hp (by simp [hpc])], hs.timedOut (.inr hpc)⟩
  have hfail' : (setLine s.cfg.pins r v s).2.failed = true := by simpa using hfail
  have hf' : (setLine s.cfg.pins r v s).2.fsm ≠ .latching := by simpa using hf
  cases hr : s.cfg.pins.ctl r with
  | none => exact ⟨[], .failing {} (by simp [setLine_unassigned hr]) (by simp) hfail' hf' hf⟩
  | some l =>
    have htrace := (setLine_assigned (p := s.cfg.pins) (r := r) (by simp [hr]) v s).1
    exact ⟨_, .failing {} htrace (by simp [isPlainEvent]) hfail' hf' hf⟩

/-- A pulse of an assigned LATCH is the last event of R143's list, with the driver's answer (R124, R149). -/
theorem TraceMove.latchPulsed {t : State} {T : FamilyTable} {b : Bool} (hpc : s.pc = .latch)
    (assigned : s.cfg.pins.latch.isSome = true) (hT : sessionTable? s = some T) (e : SameSlots s t)
    (trace : t.trace = s.trace ++ [.pulse .latch T.tLatchHoldMin b]) (fsm : t.fsm = s.fsm) (pc : t.pc = .c2)
    (res : t.res = .ok ↔ b = true) (mode : t.mode = s.mode) (cfg : t.cfg = s.cfg) :
    TraceMove s t [.pulse .latch T.tLatchHoldMin b] := by
  obtain ⟨hf, clean, _⟩ := complete_of_latch hs hp hpc
  have hconf : confirmedSoFar t := .inr (fsm.trans hf)
  have hengine : [Event.pulse .latch T.tLatchHoldMin b].filter isEngineEvent = [.pulse .latch T.tLatchHoldMin b] := rfl
  exact {
    trace := trace, start := e.start, table := e.table, noReset := rfl
    frames := by simp [subFrames, e.frame, e.subIdx]
    transfers := by simp [subIds, e.awaitedIds]
    success := fun _ => ⟨.inl clean, fun T' hT' => by
      obtain rfl : T = T' := Option.some.inj (hT.symm.trans hT')
      simp [expectedEvents, pastW1, pastW2, e.awaitedIds, e.subIdx, e.ids, e.frame, hpc, hf, fsm, pc, mode, cfg, res,
        assigned, hengine]⟩
    performed := fun _ _ _ => .inl ⟨by rw [hpc]; rfl, e.subIdx, e.ids⟩
    failure := fun hc => absurd hconf hc }

/-- The latch pulse in the session's family (R124, R128, R149). -/
theorem stepLatch_traceMove {T : FamilyTable} (hpc : s.pc = .latch) (hT : sessionTable? s = some T) :
    ∃ es, TraceMove s (stepLatch T s) es := by
  obtain ⟨hf, _, _, _, hres⟩ := complete_of_latch hs hp hpc
  cases hl : s.cfg.pins.ctl .latch with
  | none =>
    have hnone : s.cfg.pins.latch = none := hl
    have hstep : stepLatch T s = { s with pc := .c2 } := by simp [stepLatch, latchPulse, pulseLine_unassigned hl]
    rw [hstep]
    refine ⟨[], .plain {} (List.append_nil _).symm (by simp) (fun hc => ⟨hc, fun T' _ => ?_⟩)
      (fun _ _ _ => by rw [hpc]; rfl) fun hc => absurd (.inr hf) hc⟩
    simp [expectedEvents, awaitedIds, pastW1, pastW2, hpc, hf, hnone]
  | some l =>
    have assigned : s.cfg.pins.latch.isSome = true := Option.isSome_iff_exists.mpr ⟨l, hl⟩
    have htrace : (latchPulse T s).2.trace = s.trace ++ [.pulse .latch T.tLatchHoldMin (latchPulse T s).1] :=
      (pulseLine_assigned (p := s.cfg.pins) (r := .latch) (by simp [hl]) T.tLatchHoldMin s).1
    cases hok : (latchPulse T s).1 with
    | true =>
      have hstep : stepLatch T s = { (latchPulse T s).2 with pc := .c2 } := by simp [stepLatch, hok]
      rw [hok] at htrace
      rw [hstep]
      exact ⟨_, .latchPulsed hs hp hpc assigned hT {} htrace (by simp) rfl (by simp [hres]) (by simp) (by simp)⟩
    | false =>
      have hstep : stepLatch T s = { recordError .lineSequencingFailed (latchPulse T s).2 with
          res := .err .lineSequencingFailed, pc := .c2 } := by simp [stepLatch, hok]
      rw [hok] at htrace
      rw [hstep]
      exact ⟨_, .latchPulsed hs hp hpc assigned hT {} (by simpa using htrace) (by simp) rfl (by simp) (by simp)
        (by simp)⟩

end

/-- An accepted submission adds its slot to those submitted (R54, R143 S2). -/
theorem TraceMove.submitted {s : State} {T : FamilyTable} {f : Nat} (hinv : Inv s) (hs : s.fsm ≠ .idle)
    (hpc : s.pc = .s2) (more : s.subIdx < s.n) (hT : sessionTable? s = some T) (slot : s.frame[s.subIdx]? = some f) :
    TraceMove s (emit (.sub s.transport.nextId f T.W) { s with
      transport := enqueue s.transport s.cfg.handle f T.W, ids := s.ids.set s.subIdx s.transport.nextId
      subIdx := s.subIdx + 1 }) [.sub s.transport.nextId f T.W] := by
  have hf := pcFits_submitting hinv.pc (.inr hpc)
  have hlen : s.subIdx < s.ids.length := by
    have := (hinv.flight hs).counts
    have := hinv.idsLen
    omega
  have hids : (s.ids.set s.subIdx s.transport.nextId).take (s.subIdx + 1) =
      s.ids.take s.subIdx ++ [s.transport.nextId] := by
    rw [List.take_add_one, List.take_set_of_le (le_refl _), List.getElem?_set_self hlen]
    rfl
  have hframes : s.frame.take (s.subIdx + 1) = s.frame.take s.subIdx ++ [f] := by
    rw [List.take_add_one, slot]
    rfl
  have hframeLen : s.subIdx < s.frame.length := (List.getElem?_eq_some_iff.mp slot).1
  have hzip : (s.ids.take s.subIdx).length = (s.frame.take s.subIdx).length := by
    rw [List.length_take_of_le hlen.le, List.length_take_of_le hframeLen.le]
  have hengine : [Event.sub s.transport.nextId f T.W].filter isEngineEvent = [.sub s.transport.nextId f T.W] := rfl
  exact {
    trace := rfl, start := rfl, table := rfl, noReset := rfl
    frames := hframes
    transfers := hids
    success := fun hc => ⟨hc, fun T' hT' => by
      obtain rfl : T = T' := Option.some.inj (hT.symm.trans hT')
      simp [expectedEvents, pastW1, pastW2, hpc, hf, hids, hframes, List.zipWith_append hzip, hengine]⟩
    performed := fun _ hp => by simp [hpc, pastW1] at hp
    failure := fun hc => ⟨.inl hc, rfl⟩ }

/-- A return of the wait with another answer than `Ok` records an error (R143 W1). -/
theorem TraceMove.awaitFailed {s t : State} {a : AwaitRes} (e : SameSlots s t)
    (trace : t.trace = s.trace ++ [.await (awaitedIds s) a]) (failed : t.failed = true)
    (fsm : t.fsm = s.fsm) (hf : s.fsm = .awaitingCompletion) : TraceMove s t [.await (awaitedIds s) a] :=
  .failing e trace (by simp [isPlainEvent]) failed (by simp [fsm, hf]) (by simp [hf])

/-- A return of the wait with `Ok` comes after the performances of all transfers named (R56, R58). -/
theorem TraceMove.awaitOk {s t : State} {cs : List Completion} (hperf : PerfInv s) (hf : s.fsm = .awaitingCompletion)
    (hpc : s.pc = .w1) (hn : s.subIdx ≠ 0) (complete : completionsOf? s.transport (awaitedIds s) = some cs)
    (ok : ∀ c ∈ cs, c.ok = true) (e : SameSlots s t) (trace : t.trace = s.trace ++ [.await (awaitedIds s) .ok])
    (fsm : t.fsm = s.fsm) (pc : t.pc = .w2) (mode : t.mode = s.mode) (failed : t.failed = s.failed) :
    TraceMove s t [.await (awaitedIds s) .ok] := by
  have hconf : confirmedSoFar t ↔ confirmedSoFar s := by rw [confirmedSoFar, confirmedSoFar, failed, fsm]
  have hengine : [Event.await (awaitedIds s) .ok].filter isEngineEvent = [.await (awaitedIds s) .ok] := rfl
  exact {
    trace := trace, start := e.start, table := e.table, noReset := rfl
    frames := by simp [subFrames, e.frame, e.subIdx]
    transfers := by simp [subIds, e.awaitedIds]
    success := fun hc => ⟨hconf.mp hc, fun T _ => by
      simp [expectedEvents, pastW1, pastW2, e.awaitedIds, e.subIdx, e.ids, e.frame, hpc, hf, fsm, pc, mode, hn,
        hengine]⟩
    performed := fun _ _ _ => .inr ⟨by rw [e.awaitedIds], by
      rw [e.awaitedIds]
      exact hperf.performed_of_completions complete ok⟩
    failure := fun hc => ⟨.inl fun h => hc (hconf.mpr h), rfl⟩ }

theorem awaitAnswer_ok {cs : List Completion} (h : awaitAnswer cs = .ok) : ∀ c ∈ cs, c.ok = true := by
  unfold awaitAnswer at h
  split at h
  · simpa using (by assumption : cs.all (·.ok) = true)
  · cases h

/-- What each line of the engine but the latch pulse adds to the trace of the operation. -/
theorem EngineMove.traceMove {s t : State} (h : EngineMove s t) (hinv : Inv s) (hperf : PerfInv s)
    (hs : s.fsm ≠ .idle) (ht : t.fsm ≠ .idle) (hl : s.pc ≠ .latch) : ∃ es, TraceMove s t es := by
  have hfl := hinv.flight hs
  cases h with
  | goes f p r next => exact ⟨[], next.traceMove hfl hinv.pc⟩
  | calls v p direct next => exact next.traceMove hfl hinv.pc direct (hinv.sync_assigned hfl.session)
  | idles r v p next => exact next.traceMove hfl hinv.pc
  | queueFull hpc =>
    have hf := pcFits_submitting hinv.pc (.inr hpc)
    exact ⟨[.subFull], .failing {} (by simp) (by simp [isPlainEvent]) (by simp) (by simp [hf]) (by simp [hf])⟩
  | submits T f hpc more hT slot => exact ⟨_, .submitted hinv hs hpc more hT slot⟩
  | awaited cs hpc hn complete =>
    have hf := pcFits_awaiting hinv.pc (.inl hpc)
    refine ⟨[.await (awaitedIds s) (awaitAnswer cs)], ?_⟩
    by_cases ha : awaitAnswer cs = .ok
    · rw [ha]
      exact .awaitOk hperf hf hpc hn complete (awaitAnswer_ok ha) {} (by simp) (by simp) rfl (by simp)
        (by simp [awaitReturns, recordAwait])
    · exact .awaitFailed {} (by simp) (by simpa using awaitReturns_failed_of_ne_ok ha s) (by simp) hf
  | expires a p hpc next =>
    have hf := pcFits_awaiting hinv.pc (.inl hpc)
    have ha : a ≠ .ok := by rcases next with ⟨rfl, _⟩ | ⟨rfl, _⟩ <;> simp
    exact ⟨_, .awaitFailed (a := a) {} (by simp) (awaitReturns_failed_of_ne_ok ha s) (by simp) hf⟩
  | pulsed _ hpc | pulseFailed _ hpc => exact absurd hpc hl
  | ends => exact absurd rfl ht

/-! ### The latch pulse as a step -/

/-- A presentation loads the engine or leaves it at its line (R142). -/
theorem exec_pc {i : Instr} {s t : State} (h : exec i s = .next t) : t.pc = s.pc ∨ t.pc = .s1 := by
  have hadm {op m b ws l} (h : admission op m b ws l s = .next t) : t.pc = s.pc ∨ t.pc = .s1 := by
    rcases admission_cases h with ⟨e, _, rfl⟩ | ⟨_, _, _, _, _, _, _, _, rfl⟩
    · exact .inl rfl
    · exact .inr rfl
  cases i with
  | hostOpen hd c =>
    rcases execOpen_cases h with ⟨_, rfl⟩ | ⟨T, _, _, _, _, ⟨_, rfl⟩ | ⟨_, rfl⟩⟩
    all_goals exact .inl rfl
  | hostWrite | hostWriteBatch | hostRead => exact hadm h
  | _ => cases h; exact .inl (evalEncode_pc _ _ _)

theorem engineStep_latch {s t : State} (hs : s.fsm ≠ .idle) (hpc : s.pc = .latch) (h : engineStep s = .next t) :
    ∃ T, sessionTable? s = some T ∧ t = stepLatch T s := by
  simp only [engineStep, hs, hpc, if_false] at h
  obtain ⟨T, hT, h⟩ := withTable_next h
  cases h
  exact ⟨T, hT, rfl⟩

/-- From the line of the latch pulse the engine goes on by the pulse in the session's family alone (R149). -/
theorem stepLatch_of_step {s t : State} (hinv : Inv s) (h : step s = .next t) (hs : s.fsm ≠ .idle)
    (hpc : s.pc = .latch) (ht : t.pc = .c2) :
    ∃ i d T, sessionTable? s = some T ∧ t = stepLatch T { s with inbox := i, draws := d } := by
  have henv {m : EnvMove} {i : List Input} {d : Nat} (h : envStep m { s with inbox := i, draws := d } = .next t) :
      ∃ T, sessionTable? s = some T ∧ t = stepLatch T { s with inbox := i, draws := d } := by
    cases m with
    | run =>
      have h : engineStep { s with inbox := i, draws := d } = .next t := by
        simpa [envStep, blockStep, hinv.opening_eq_none hs] using h
      exact engineStep_latch (s := { s with inbox := i, draws := d }) hs hpc h
    | perf id ok rx =>
      cases h
      simp [hpc] at ht
    | expire p =>
      cases h
      have hw : waitExpires p { s with inbox := i, draws := d } = { s with inbox := i, draws := d } := by
        simp [waitExpires, mayExpire, hpc]
      rw [hw] at ht
      simp [hpc] at ht
  rcases step_cases s with ⟨x, xs, _, e⟩ | ⟨_, e⟩ <;> rw [e] at h
  · cases x with
    | port w =>
      simp only [deliver, present] at h
      split at h
      · rcases exec_pc h with hp | hp
        · simp [ht, hpc] at hp
        · simp [ht] at hp
      · cases h; simp [hpc] at ht
      · cases h; simp [hpc] at ht
    | move m => exact ⟨xs, s.draws, henv h⟩
    | reset => cases h; simp at ht
  · exact ⟨s.inbox, s.draws + 1, henv h⟩

theorem EngineMove.pc_of_latch {s t : State} (h : EngineMove s t) (hpc : s.pc = .latch) : t.pc = .c2 := by
  cases h with
  | goes f p r next => cases next <;> simp_all
  | calls v p _ next => cases next <;> simp_all
  | idles r v p next => cases next <;> simp_all
  | pulsed | pulseFailed => rfl
  | _ => simp_all

/-! ### Steps -/

/-- What admission loads has made no event yet (R142). -/
theorem loadEngine_flightTrace (m : Mode) (b : Bool) (fs : List Nat) (l : Bool) (s : State) :
    FlightTrace (loadEngine m b fs l s) := by
  have hev : opEvents (loadEngine m b fs l s) = [] := by simp [opEvents]
  refine ⟨le_refl _, by simp [hev, subFrames], by simp [hev, subIds, awaitedIds], fun _ T _ => ?_, fun _ => nofun,
    fun hc => absurd (.inl rfl) hc, by rw [hev]; rfl⟩
  simp [engineEvents, hev, expectedEvents, pastW1, pastW2]

theorem FlightTrace.afterInput {s : State} (h : FlightTrace s) (i : List Input) (d : Nat) :
    FlightTrace { s with inbox := i, draws := d } :=
  ⟨h.start, h.frames, h.transfers, h.success, h.performed, h.failure, h.noReset⟩

/-- What any input adds to the trace of an operation in flight. -/
theorem InputMove.traceMove {x : Option Input} {s t : State} (h : InputMove x s t) (hinv : Inv s) (hperf : PerfInv s)
    (hs : s.fsm ≠ .idle) (ht : t.fsm ≠ .idle) (hl : ¬ (s.pc = .latch ∧ t.pc = .c2)) : ∃ es, TraceMove s t es := by
  cases h with
  | reset => exact absurd rfl ht
  | unassigned | codec | beginOpen | rest =>
    exact ⟨[], .outside {} (List.append_nil _).symm (by simp) rfl rfl rfl rfl rfl rfl rfl⟩
  | refused op e =>
    exact ⟨[.ret op (.err e)], .outside {} rfl (by simp [isPlainEvent]) rfl rfl rfl rfl rfl rfl rfl⟩
  | admitted _ _ _ _ _ _ _ _ idle => exact absurd idle hs
  | openLine o _ _ ho => simp [hinv.opening_eq_none hs] at ho
  | engine _ _ _ move =>
    exact move.traceMove hinv hperf hs ht fun hpc => hl ⟨hpc, move.pc_of_latch hpc⟩
  | performed id ok rx =>
    rcases perform_cases id ok rx s with e | ⟨y, _, _, e⟩ <;> rw [e]
    · exact ⟨[], .outside {} (List.append_nil _).symm (by simp) rfl rfl rfl rfl rfl rfl rfl⟩
    · exact ⟨[.perf id ok], .outside {} rfl (by simp [isPlainEvent]) rfl rfl rfl rfl rfl rfl rfl⟩

theorem step_traceMove {s t : State} (hinv : Inv s) (hperf : PerfInv s) (h : step s = .next t) (hs : s.fsm ≠ .idle)
    (ht : t.fsm ≠ .idle) : ∃ i d es, TraceMove { s with inbox := i, draws := d } t es := by
  by_cases hl : s.pc = .latch ∧ t.pc = .c2
  · obtain ⟨i, d, T, hT, rfl⟩ := stepLatch_of_step hinv h hs hl.1 hl.2
    have hinv' := hinv.afterInput i d
    exact ⟨i, d, stepLatch_traceMove (hinv'.flight hs) hinv'.pc hl.1 hT⟩
  · obtain ⟨i, d, hmove⟩ := inputMove_of_step h
    exact ⟨i, d, hmove.traceMove (hinv.afterInput i d) ⟨hperf.once, hperf.pending, hperf.unborn, hperf.held⟩ hs ht hl⟩

/-- An operation that a step puts in flight has just been admitted (R160). -/
theorem InputMove.loaded {x : Option Input} {s t : State} (h : InputMove x s t) (hs : s.fsm = .idle)
    (ht : t.fsm ≠ .idle) : ∃ m b fs l, t = loadEngine m b fs l s := by
  cases h with
  | admitted m b ws l T fs => exact ⟨m, b, fs, l, rfl⟩
  | openLine o _ _ ho line =>
    rcases openStep_cases line with ⟨r, v, l, rfl, _⟩ | ⟨T, _, _, rfl⟩ | ⟨_, rfl⟩ | ⟨_, rfl⟩
    all_goals exact absurd (by simpa using hs) ht
  | reset => exact absurd rfl ht
  | engine _ _ inFlight => exact absurd hs inFlight
  | _ => exact absurd (by simpa using hs) ht

end Sys2Proof.Machine

open Sys2Proof Sys2Proof.Machine in
/-- Settles O54: an operation just admitted has made no event, and one in flight is extended by what the step adds. -/
theorem operationTraceIsKept : Obligations.OperationTraceIsKept := by
  intro s t hinv hperf hop h ht
  by_cases hs : s.fsm = .idle
  · obtain ⟨i, d, hmove⟩ := inputMove_of_step h
    obtain ⟨m, b, fs, l, rfl⟩ := hmove.loaded hs ht
    exact loadEngine_flightTrace m b fs l _
  · obtain ⟨i, d, es, hmove⟩ := step_traceMove hinv hperf h hs ht
    exact hmove.flightTrace ((hop hs).afterInput i d) (hinv.table (hinv.flight hs).session)
end

section
/-! PROOF. Reading the host port's operands back from the bytes the encoder lays out (R85, R86; assumption 2). -/

namespace Sys2Proof

/-- The bytes `xs` stand in `b` from place `k` on. -/
def StandsAt (b : List Byte) (k : Nat) (xs : List Byte) : Prop := ∃ p q, b = p ++ (xs ++ q) ∧ p.length = k

theorem standsAt_zero (xs q : List Byte) : StandsAt (xs ++ q) 0 xs := ⟨[], q, rfl, rfl⟩

theorem StandsAt.left {b : List Byte} {k : Nat} {xs ys : List Byte} (h : StandsAt b k (xs ++ ys)) : StandsAt b k xs := by
  obtain ⟨p, q, rfl, hk⟩ := h
  exact ⟨p, ys ++ q, by simp, hk⟩

theorem StandsAt.right {b : List Byte} {k n : Nat} {xs ys : List Byte} (h : StandsAt b k (xs ++ ys))
    (hn : xs.length = n) : StandsAt b (k + n) ys := by
  obtain ⟨p, q, rfl, hk⟩ := h
  exact ⟨p ++ xs, q, by simp, by simp [hk, hn]⟩

theorem StandsAt.byteAt_eq {b : List Byte} {k : Nat} {x : Byte} {xs : List Byte} (h : StandsAt b k (x :: xs)) :
    byteAt b k = x := by
  obtain ⟨p, q, rfl, rfl⟩ := h
  simp [byteAt]

theorem StandsAt.tail {b : List Byte} {k : Nat} {x : Byte} {xs : List Byte} (h : StandsAt b k (x :: xs)) :
    StandsAt b (k + 1) xs :=
  StandsAt.right (xs := [x]) h rfl

theorem ofLeBytes_leBytes : ∀ (k : Nat) {v : Nat}, v < 256 ^ k → ofLeBytes (leBytes k v) = v
  | 0, v, h => by
    have : v = 0 := by simpa using h
    rw [this]
    rfl
  | k + 1, v, h => by
    have hdiv : v / 256 < 256 ^ k := by
      rw [Nat.div_lt_iff_lt_mul (by decide)]
      exact h
    have := Nat.mod_add_div v 256
    rw [leBytes, ofLeBytes, ofLeBytes_leBytes k hdiv, BitVec.toNat_ofNat]
    exact this

theorem StandsAt.numAt_eq {b : List Byte} {k v : Nat} (h : StandsAt b k (leBytes 1 v)) (hv : v < 256) :
    numAt b k = v := by
  rw [numAt, StandsAt.byteAt_eq (h : StandsAt b k [BitVec.ofNat 8 v]), BitVec.toNat_ofNat]
  exact Nat.mod_eq_of_lt hv

theorem StandsAt.word32At_eq {b : List Byte} {k v : Nat} (h : StandsAt b k (leBytes 4 v)) (hv : fits32 v = true) :
    word32At b k = v := by
  have hlt : v < 256 ^ 4 := of_decide_eq_true hv
  have h1 := h.tail
  have h2 := h1.tail
  have h3 := h2.tail
  rw [word32At, h.byteAt_eq, h1.byteAt_eq, h2.byteAt_eq, h3.byteAt_eq]
  exact ofLeBytes_leBytes 4 hlt

theorem StandsAt.directionAt_eq {b : List Byte} {k : Nat} {d : Direction}
    (h : StandsAt b k (leBytes 1 (directionCode d))) : directionAt b k = d := by
  cases d <;> simp [directionAt, h.numAt_eq (by decide), directionCode]

theorem StandsAt.commandAt_eq {b : List Byte} {k : Nat} {c : Command}
    (h : StandsAt b k (leBytes 1 (commandCode c))) : commandAt b k = c := by
  cases c <;> simp [commandAt, h.numAt_eq (by decide), commandCode]

theorem StandsAt.channelAt_eq {b : List Byte} {k : Nat} {c : Channel}
    (h : StandsAt b k (leBytes 1 (channelCode c))) : channelAt b k = c := by
  cases c <;> simp [channelAt, h.numAt_eq (by decide), channelCode]

theorem StandsAt.boolAt_eq {b : List Byte} {k : Nat} {v : Bool} (h : StandsAt b k (leBytes 1 v.toNat)) :
    boolAt b k = v := by
  cases v <;> simp [boolAt, h.numAt_eq (by decide)]

theorem StandsAt.opt32At_eq {b : List Byte} {k : Nat} {v : Option Nat} (h : StandsAt b k (putOpt32 v))
    (hv : optFits32 v = true) : opt32At b k = v := by
  cases v with
  | none =>
    have hbit : boolAt b k = false := StandsAt.boolAt_eq (v := false) h.left
    simp [opt32At, hbit]
  | some x =>
    have hbit : boolAt b k = true := StandsAt.boolAt_eq (v := true) h.left
    have hword : word32At b (k + 1) = x := (StandsAt.right h rfl).word32At_eq hv
    simp [opt32At, hbit, hword]

theorem StandsAt.regWordAt_eq {b : List Byte} {k : Nat} {w : RegisterWord} (h : StandsAt b k (putRegWord w))
    (hw : w.portWf = true) : regWordAt b k = w := by
  simp only [RegisterWord.portWf, Bool.and_eq_true] at hw
  have hdata := h.left
  have hchan := hdata.left
  have hcmd := hchan.left
  have hdir := hcmd.left
  have hcommand : commandAt b (k + 1) = w.command := (hcmd.right rfl).commandAt_eq
  have hchannel : channelAt b (k + 2) = w.channel := (hchan.right rfl).channelAt_eq
  have hvalue : word32At b (k + 3) = w.data := (hdata.right rfl).word32At_eq hw.1
  have hmode : opt32At b (k + 7) = w.modeBits := (h.right rfl).opt32At_eq hw.2
  rw [regWordAt, hdir.directionAt_eq, hcommand, hchannel, hvalue, hmode]

/-- Consecutive words of a batch are read back in order (R85). -/
theorem StandsAt.regWordsAt_eq : ∀ {b : List Byte} {k : Nat} {ws : List RegisterWord},
    StandsAt b k (ws.flatMap putRegWord) → ws.all RegisterWord.portWf = true →
    ((List.range ws.length).map fun i => regWordAt b (k + regWordSize * i)) = ws
  | _, _, [], _, _ => rfl
  | b, k, w :: ws, h, hw => by
    rw [List.flatMap_cons] at h
    simp only [List.all_cons, Bool.and_eq_true] at hw
    have htail := StandsAt.regWordsAt_eq (h.right (Laws.EncodedLength.putRegWord_length w)) hw.2
    have hplace (i : Nat) : k + 12 + regWordSize * i = k + regWordSize * (i + 1) := by
      rw [regWordSize]
      omega
    simp only [hplace] at htail
    rw [List.length_cons, List.range_succ_eq_map, List.map_cons, List.map_map]
    exact congrArg₂ _ (h.left.regWordAt_eq hw.1) htail

/-- The host port carries WRITE_BATCH (R85). -/
theorem decode_encode_hostWriteBatch {ws : List RegisterWord} {l : Bool} (h : (Instr.hostWriteBatch ws l).wf = true) :
    decode (encode (.hostWriteBatch ws l)) = .instr (.hostWriteBatch ws l) := by
  simp only [Instr.wf, Bool.and_eq_true] at h
  have hall := standsAt_zero (leBytes 1 3 ++ leBytes 4 ws.length ++ ws.flatMap putRegWord ++ leBytes 1 l.toNat) []
  rw [List.append_nil] at hall
  have hwords := hall.left
  have hlen := hwords.left
  have hcode := hlen.left.numAt_eq (by decide)
  have hcount := (hlen.right (Laws.EncodedLength.leBytes_length 1 3)).word32At_eq h.1
  have hread := StandsAt.regWordsAt_eq (hwords.right (n := 5) rfl) h.2
  have hsize : (leBytes 1 3 ++ leBytes 4 ws.length ++ ws.flatMap putRegWord).length = 5 + regWordSize * ws.length := by
    rw [List.length_append, Laws.EncodedLength.putRegWords_length]
    rfl
  have hlatch := (hall.right hsize).boolAt_eq
  simp only [Nat.zero_add] at hcount hread hlatch
  simp only [encode, decode, decodeHost, hcode, writeBatchOf, hcount, hread, hlatch]

end Sys2Proof
end

section
/-! PROOF. Runs, composed of steps and of runs, and the end of an operation whose transfers have all succeeded (R143 W3 to
C3, R149). -/

namespace Sys2Proof.Machine

/-- A run goes on where the run before it has stopped. -/
theorem runSteps_trans {a b : Nat} {s u t : State} (h : runSteps a s = .next u) (h' : runSteps b u = .next t) :
    runSteps (a + b) s = .next t := by
  induction a generalizing s with
  | zero =>
    cases h
    simpa [opInFlight] using h'
  | succ a ih =>
    cases hstep : step s with
    | next v =>
      rw [runSteps_next hstep] at h
      rw [Nat.succ_add, runSteps_next hstep]
      exact ih h
    | fault | refused =>
      have hcore : Sys2Proof.core.step s = _ := hstep
      simp [runSteps, Host.Core.run, hcore] at h

theorem runSteps_one {s t : State} (h : step s = .next t) : runSteps 1 s = .next t := runSteps_next h

/-- A run that begins with a move of the engine. -/
theorem runSteps_engine {k : Nat} {s u t : State} {rest : List Input} (hbox : s.inbox = .move .run :: rest)
    (ho : s.opening = none) (he : engineStep { s with inbox := rest } = .next u) (h : runSteps k u = .next t) :
    runSteps (k + 1) s = .next t :=
  (runSteps_next ((step_run hbox ho).trans he)).trans h

theorem takeLineAnswer_listed {s : State} {b : Bool} {bs : List Bool} (h : s.lineAnswers = b :: bs) :
    takeLineAnswer s = (b, { s with lineAnswers := bs }) := by
  simp [takeLineAnswer, h]

/-! What the lines of R143 do on the way of an operation whose transfers all succeed (R159). -/

section

variable {s : State} (hs : s.fsm ≠ .idle)
include hs

theorem engineStep_s1_pipelined (hpc : s.pc = .s1) (hm : s.mode = .pipelined) :
    engineStep s = .next { s with pc := .s2 } := by
  simp [engineStep, hs, hpc, stepS1, hm]

theorem engineStep_w2_pipelined (hpc : s.pc = .w2) (hm : s.mode = .pipelined) :
    engineStep s = .next { s with pc := .w3 } := by
  simp [engineStep, hs, hpc, stepW2, hm]

theorem engineStep_w3_clean (hpc : s.pc = .w3) (clean : s.failed = false) :
    engineStep s = .next { s with fsm := .allConfirmed, pc := .c1 } := by
  simp [engineStep, hs, hpc, stepW3, clean]

theorem engineStep_c1_asked (hpc : s.pc = .c1) (asked : s.latchReq = true) :
    engineStep s = .next { s with res := .ok, fsm := .latching, pc := .latch } := by
  simp [engineStep, hs, hpc, stepC1, asked]

theorem engineStep_c1_notAsked (hpc : s.pc = .c1) (notAsked : s.latchReq = false) :
    engineStep s = .next { s with res := .ok, pc := .c2 } := by
  simp [engineStep, hs, hpc, stepC1, notAsked]

theorem engineStep_c2_noRead {T : FamilyTable} (hpc : s.pc = .c2) (hT : sessionTable? s = some T)
    (noRead : s.rdback = false) : engineStep s = .next { s with pc := .c3 } := by
  simp [engineStep, hs, hpc, withTable_eq hT, stepC2, noRead]

theorem engineStep_c3 (hpc : s.pc = .c3) : engineStep s = .next (finishOp s.res s) := by
  simp [engineStep, hs, hpc]

/-- A latch pulse the driver answers with success (R124). -/
theorem engineStep_latch_assigned {T : FamilyTable} {l : Nat} {answers : List Bool} (hpc : s.pc = .latch)
    (hT : sessionTable? s = some T) (hl : s.cfg.pins.latch = some l) (hans : s.lineAnswers = true :: answers) :
    engineStep s = .next { s with
      pc := .c2, lineLatch := .known s.par.latchIdle, lineAnswers := answers
      trace := s.trace ++ [.pulse .latch T.tLatchHoldMin true] } := by
  have hl : s.cfg.pins.ctl .latch = some l := hl
  simp [engineStep, hs, hpc, withTable_eq hT, stepLatch, latchPulse, pulseLine, hl, takeLineAnswer_listed hans, emit,
    putLine, lineAfter, idleLevel]

/-- On an unassigned LATCH there is no pulse (R128). -/
theorem engineStep_latch_unassigned {T : FamilyTable} (hpc : s.pc = .latch) (hT : sessionTable? s = some T)
    (hl : s.cfg.pins.latch = none) : engineStep s = .next { s with pc := .c2 } := by
  have hl : s.cfg.pins.ctl .latch = none := hl
  simp [engineStep, hs, hpc, withTable_eq hT, stepLatch, latchPulse, pulseLine_unassigned hl]

end

section

variable {s : State} {rest : List Input} (hs : s.fsm ≠ .idle) (ho : s.opening = none)
include hs ho

/-- Lines W3 and C1 of an operation none of whose steps has failed, which asks for the latch pulse (R143, R149). -/
theorem runSteps_w3_asked {k : Nat} (hpc : s.pc = .w3) (clean : s.failed = false) (hl : s.latchReq = true)
    (hbox : s.inbox = runs (k + 2) ++ rest) :
    runSteps 2 s = .next { s with inbox := runs k ++ rest, res := .ok, fsm := .latching, pc := .latch } :=
  runSteps_engine hbox ho (engineStep_w3_clean hs hpc clean) <|
  runSteps_engine rfl ho (engineStep_c1_asked nofun rfl hl) (runSteps_zero _)

/-- Lines W3 and C1 of an operation none of whose steps has failed, which asks for no latch pulse (R143). -/
theorem runSteps_w3_notAsked {k : Nat} (hpc : s.pc = .w3) (clean : s.failed = false) (hl : s.latchReq = false)
    (hbox : s.inbox = runs (k + 2) ++ rest) :
    runSteps 2 s = .next { s with inbox := runs k ++ rest, res := .ok, fsm := .allConfirmed, pc := .c2 } :=
  runSteps_engine hbox ho (engineStep_w3_clean hs hpc clean) <|
  runSteps_engine rfl ho (engineStep_c1_notAsked nofun rfl hl) (runSteps_zero _)

variable {T : FamilyTable} (hr : s.rdback = false) (hT : sessionTable? s = some T)
include hr hT

/-- Lines C2 and C3 of an operation that reads nothing back: it ends with its result so far (R143). -/
theorem runSteps_c2 (hpc : s.pc = .c2) (hbox : s.inbox = runs 2 ++ rest) :
    runSteps 2 s = .next { s with
      fsm := .idle, pc := .idle, result := s.res, inbox := rest
      trace := s.trace ++ [.ret (opInFlight s) s.res] } :=
  runSteps_engine hbox ho (engineStep_c2_noRead hs hpc hT hr) <|
  runSteps_engine rfl ho (engineStep_c3 hs rfl) rfl

/-- The end of an operation from its latch pulse on an unassigned LATCH (R128, R143). -/
theorem runSteps_latch_unassigned (hpc : s.pc = .latch) (hlatch : s.cfg.pins.latch = none)
    (hbox : s.inbox = runs 3 ++ rest) :
    runSteps 3 s = .next { s with
      fsm := .idle, pc := .idle, result := s.res, inbox := rest
      trace := s.trace ++ [.ret (opInFlight s) s.res] } :=
  runSteps_engine hbox ho (engineStep_latch_unassigned hs hpc hT hlatch) <|
  runSteps_c2 hs ho hr hT rfl rfl

/-- The end of an operation from its latch pulse, which the driver answers with success (R124, R143). -/
theorem runSteps_latch_assigned {l : Nat} {answers : List Bool} (hpc : s.pc = .latch)
    (hlatch : s.cfg.pins.latch = some l) (hans : s.lineAnswers = true :: answers) (hbox : s.inbox = runs 3 ++ rest) :
    runSteps 3 s = .next { s with
      fsm := .idle, pc := .idle, result := s.res, inbox := rest, lineLatch := .known s.par.latchIdle
      lineAnswers := answers
      trace := s.trace ++ [.pulse .latch T.tLatchHoldMin true] ++ [.ret (opInFlight s) s.res] } :=
  runSteps_engine hbox ho (engineStep_latch_assigned (s := { s with inbox := runs 2 ++ rest }) hs hpc hT hlatch hans) <|
  runSteps_c2 hs ho hr hT rfl rfl

/-- The end of a confirmed operation, from line W3: the latch pulse where it is asked for and LATCH is assigned, and
`Ok` (R128, R143, R149). -/
theorem runSteps_confirmed {answers : List Bool} (hpc : s.pc = .w3) (clean : s.failed = false)
    (hans : s.lineAnswers = true :: answers) (hbox : s.inbox = runs (if s.latchReq then 5 else 4) ++ rest) :
    let pulsed := s.latchReq = true ∧ s.cfg.pins.latch ≠ none
    runSteps (if s.latchReq then 5 else 4) s = .next { s with
      fsm := .idle, pc := .idle, res := .ok, result := .ok, inbox := rest
      lineLatch := if pulsed then .known s.par.latchIdle else s.lineLatch
      lineAnswers := if pulsed then answers else s.lineAnswers
      trace := s.trace ++ (if pulsed then [.pulse .latch T.tLatchHoldMin true] else []) ++
        [.ret (opInFlight s) .ok] } := by
  by_cases hl : s.latchReq = true
  · rw [if_pos hl] at hbox
    have hlatching := runSteps_w3_asked (k := 3) hs ho hpc clean hl hbox
    cases hlatch : s.cfg.pins.latch with
    | none =>
      have hend := runSteps_trans hlatching (runSteps_latch_unassigned nofun ho hr hT rfl hlatch rfl)
      simpa [hl, opInFlight] using hend
    | some l =>
      have hend := runSteps_trans hlatching (runSteps_latch_assigned
        (s := { s with inbox := runs 3 ++ rest, res := .ok, fsm := .latching, pc := .latch })
        nofun ho hr hT rfl hlatch hans rfl)
      simpa [hl, opInFlight] using hend
  · rw [if_neg hl] at hbox
    have hconfirmed := runSteps_w3_notAsked (k := 2) hs ho hpc clean (by simpa using hl) hbox
    have hend := runSteps_trans hconfirmed (runSteps_c2 nofun ho hr hT rfl rfl)
    simpa [hl, opInFlight] using hend

end

end Sys2Proof.Machine
end

section
/-! PROOF. The transport while a batch is in flight, whatever the order and the times of its performances (R42, R55, R61):
what it holds beside what it held before. -/

namespace Sys2Proof.Machine

/-- The ids of the next `m` submissions (R42; assumption 8). -/
def freshIds (t : Transport) (m : Nat) : List Nat := (List.range m).map (t.nextId + ·)

theorem mem_freshIds {t : Transport} {m id : Nat} : id ∈ freshIds t m ↔ ∃ k < m, id = t.nextId + k := by
  simp [freshIds, eq_comm]

theorem freshIds_succ (t : Transport) (m : Nat) : freshIds t (m + 1) = freshIds t m ++ [t.nextId + m] := by
  simp [freshIds, List.range_succ]

theorem length_freshIds (t : Transport) (m : Nat) : (freshIds t m).length = m := by
  simp [freshIds]

/-- What the transport holds, beside what `t₀` held, after `m` submissions of which those with the ids `done` have been
performed with success, in this order. -/
structure BatchTransport (t₀ t : Transport) (m : Nat) (done : List Nat) : Prop where
  nextId      : t.nextId = t₀.nextId + m
  depths      : t.depths = t₀.depths
  outstanding : ∃ new, t.outstanding = t₀.outstanding ++ new ∧
    new.map (·.id) = (freshIds t₀ m).filter fun id => decide (id ∉ done)
  completions : ∃ cs, t.completions = t₀.completions ++ cs ∧ cs.map (·.id) = done ∧ ∀ c ∈ cs, c.ok = true
  submitted   : ∀ id ∈ done, id ∈ freshIds t₀ m

theorem BatchTransport.start (t : Transport) : BatchTransport t t 0 [] :=
  ⟨rfl, rfl, ⟨[], by simp [freshIds]⟩, ⟨[], by simp⟩, nofun⟩

variable {t₀ t : Transport} {m : Nat} {done : List Nat}

theorem BatchTransport.enqueue (h : BatchTransport t₀ t m done) (hd f b : Nat) :
    BatchTransport t₀ (enqueue t hd f b) (m + 1) done := by
  obtain ⟨new, hnew, hids⟩ := h.outstanding
  have hfresh : t.nextId ∉ done := fun hmem => by
    obtain ⟨k, hk, e⟩ := mem_freshIds.mp (h.submitted _ hmem)
    have := h.nextId
    omega
  refine ⟨?_, h.depths, ⟨new ++ [⟨t.nextId, hd, frameBytes b f, b⟩], by simp [Machine.enqueue, hnew], ?_⟩,
    h.completions, fun id hid => ?_⟩
  · simp only [Machine.enqueue, h.nextId]
    omega
  · rw [List.map_append, hids, freshIds_succ, List.filter_append, ← h.nextId]
    simp [hfresh]
  · rw [freshIds_succ]
    exact List.mem_append_left _ (h.submitted id hid)

/-- While a handle's queue has room for the whole batch it has room for the next of its frames (R42). -/
theorem BatchTransport.room (h : BatchTransport t₀ t m done) {n hd : Nat} (hm : m < n)
    (hroom : outstandingOf t₀ hd + n ≤ queueDepth t₀ hd) : queueFull t hd = false := by
  obtain ⟨new, hnew, hids⟩ := h.outstanding
  have hlen : new.length ≤ m := by
    calc new.length = (new.map (·.id)).length := (List.length_map _).symm
      _ ≤ (freshIds t₀ m).length := hids ▸ List.length_filter_le _ _
      _ = m := length_freshIds _ _
  have hout : outstandingOf t hd ≤ outstandingOf t₀ hd + new.length := by
    rw [outstandingOf, hnew, List.filter_append, List.length_append]
    exact Nat.add_le_add_left (List.length_filter_le _ _) _
  have hdepth : queueDepth t hd = queueDepth t₀ hd := by rw [queueDepth, queueDepth, h.depths]
  simp only [queueFull, hdepth, decide_eq_false_iff_not]
  omega

/-- A submitted transfer that has not been performed is outstanding (R44). -/
theorem BatchTransport.exists_outstanding (h : BatchTransport t₀ t m done) {id : Nat} (hid : id ∈ freshIds t₀ m)
    (hdone : id ∉ done) : ∃ x ∈ t.outstanding, x.id = id := by
  obtain ⟨new, hnew, hids⟩ := h.outstanding
  have hmem : id ∈ new.map (·.id) := by
    rw [hids]
    simpa using ⟨hid, hdone⟩
  obtain ⟨x, hx, rfl⟩ := List.mem_map.mp hmem
  exact ⟨x, hnew ▸ List.mem_append_right _ hx, rfl⟩

theorem not_mem_freshIds_of_older {id : Nat} (hid : id < t₀.nextId) (m : Nat) : id ∉ freshIds t₀ m := by
  intro hmem
  obtain ⟨k, _, rfl⟩ := mem_freshIds.mp hmem
  omega

/-- What the transport held before is older than the batch (R42). -/
theorem TransportOk.outstanding_ne {id : Nat} (h₀ : TransportOk t₀) (hid : id ∈ freshIds t₀ m) {x : Transfer}
    (hx : x ∈ t₀.outstanding) : x.id ≠ id := by
  rintro rfl
  exact not_mem_freshIds_of_older (h₀.older _ (List.mem_append_left _ (List.mem_map_of_mem hx))) m hid

theorem TransportOk.completion_ne {id : Nat} (h₀ : TransportOk t₀) (hid : id ∈ freshIds t₀ m) {c : Completion}
    (hc : c ∈ t₀.completions) : c.id ≠ id := by
  rintro rfl
  exact not_mem_freshIds_of_older (h₀.older _ (List.mem_append_right _ (List.mem_map_of_mem hc))) m hid

/-- A performance of one of the batch's transfers (R61). -/
theorem BatchTransport.completeTransfer (h : BatchTransport t₀ t m done) (h₀ : TransportOk t₀) {x : Transfer}
    (hx : x.id ∈ freshIds t₀ m) (rx : Nat) :
    BatchTransport t₀ (completeTransfer t x true rx) m (done ++ [x.id]) := by
  obtain ⟨new, hnew, hids⟩ := h.outstanding
  obtain ⟨cs, hcs, hdone, hok⟩ := h.completions
  have hold : t₀.outstanding.filter (fun y => !(y.id == x.id)) = t₀.outstanding :=
    List.filter_eq_self.mpr fun y hy => by simpa using h₀.outstanding_ne hx hy
  refine ⟨h.nextId, h.depths, ⟨new.filter fun y => !(y.id == x.id), ?_, ?_⟩,
    ⟨cs ++ [⟨x.id, true, frameBytes x.nbits (rx % 2 ^ x.nbits)⟩], ?_, by simp [hdone],
    fun c hc => (List.mem_append.mp hc).elim (hok c) fun hc => by rw [List.mem_singleton.mp hc]⟩,
    fun id hid => ?_⟩
  · rw [Machine.completeTransfer, hnew, List.filter_append, hold]
  · have hmap : (new.filter fun y => !(y.id == x.id)).map (·.id) = (new.map (·.id)).filter fun id => !(id == x.id) := by
      rw [List.filter_map]
      rfl
    rw [hmap, hids, List.filter_filter]
    exact List.filter_congr fun id _ => Bool.eq_iff_iff.mpr (by simp [and_comm])
  · simp [Machine.completeTransfer, hcs]
  · rcases List.mem_append.mp hid with hid | hid
    · exact h.submitted id hid
    · exact List.mem_singleton.mp hid ▸ hx

/-- Where all transfers of the batch have been performed, none is outstanding (R44). -/
theorem BatchTransport.outstanding_eq (h : BatchTransport t₀ t m done) (hall : ∀ id ∈ freshIds t₀ m, id ∈ done) :
    t.outstanding = t₀.outstanding := by
  obtain ⟨new, hnew, hids⟩ := h.outstanding
  have hnil : new.map (·.id) = [] := by
    rw [hids]
    exact List.filter_eq_nil_iff.mpr fun id hid => by simpa using hall id hid
  rw [hnew, List.map_eq_nil_iff.mp hnil, List.append_nil]

/-- The return of the wait for the whole batch leaves the completions there were before (R208). -/
theorem BatchTransport.clearCompletions (h : BatchTransport t₀ t m done) (h₀ : TransportOk t₀) :
    (clearCompletions t (freshIds t₀ m)).completions = t₀.completions := by
  obtain ⟨cs, hcs, hdone, _⟩ := h.completions
  have hold : t₀.completions.filter (fun c => !(freshIds t₀ m).contains c.id) = t₀.completions :=
    List.filter_eq_self.mpr fun c hc => by simpa using fun hid => h₀.completion_ne hid hc rfl
  have hnew : cs.filter (fun c => !(freshIds t₀ m).contains c.id) = [] :=
    List.filter_eq_nil_iff.mpr fun c hc => by
      simpa using h.submitted c.id (hdone ▸ List.mem_map_of_mem hc)
  rw [Machine.clearCompletions, hcs, List.filter_append, hold, hnew, List.append_nil]

/-- A performed transfer of the batch has a completion, and it is a success. -/
theorem BatchTransport.completionOf (h : BatchTransport t₀ t m done) (h₀ : TransportOk t₀) {id : Nat}
    (hid : id ∈ done) : ∃ c, completionOf? t id = some c ∧ c.ok = true := by
  obtain ⟨cs, hcs, hdone, hok⟩ := h.completions
  have hex : ∃ c ∈ t.completions, (c.id == id) = true := by
    obtain ⟨c, hc, rfl⟩ := List.mem_map.mp (hdone ▸ hid)
    exact ⟨c, hcs ▸ List.mem_append_right _ hc, by simp⟩
  obtain ⟨c, hc⟩ := Option.isSome_iff_exists.mp (List.find?_isSome.mpr hex)
  obtain ⟨hmem, hcid⟩ := completionOf?_some hc
  refine ⟨c, hc, ?_⟩
  rw [hcs] at hmem
  rcases List.mem_append.mp hmem with hmem | hmem
  · exact absurd hcid (h₀.completion_ne (h.submitted id hid) hmem)
  · exact hok c hmem

/-- The wait returns where each transfer it names has completed (R43). -/
theorem completionsOf?_of_forall {t : Transport} {p : Completion → Prop} : ∀ {ids : List Nat},
    (∀ id ∈ ids, ∃ c, completionOf? t id = some c ∧ p c) → ∃ cs, completionsOf? t ids = some cs ∧ ∀ c ∈ cs, p c
  | [], _ => ⟨[], rfl, nofun⟩
  | id :: ids, h => by
    obtain ⟨c, hc, hpc⟩ := h id List.mem_cons_self
    obtain ⟨cs, hcs, hpcs⟩ := completionsOf?_of_forall (ids := ids) fun j hj => h j (List.mem_cons_of_mem _ hj)
    exact ⟨c :: cs, by simp [completionsOf?, hc, hcs], by simpa using ⟨hpc, hpcs⟩⟩

theorem BatchTransport.complete (h : BatchTransport t₀ t m done) (h₀ : TransportOk t₀)
    (hall : ∀ id ∈ freshIds t₀ m, id ∈ done) :
    ∃ cs, completionsOf? t (freshIds t₀ m) = some cs ∧ ∀ c ∈ cs, c.ok = true :=
  completionsOf?_of_forall fun id hid => h.completionOf h₀ (hall id hid)

end Sys2Proof.Machine
end

section
/-! PROOF. A schedule of a batch: the moves are the engine's and one performance of each transfer, each at some time after
its submission (R55). -/

namespace Sys2Proof.Machine

/-- The transfer a move performs. -/
def performedId? : EnvMove → Option Nat
  | .perf id _ _ => some id
  | _ => none

/-- The transfers some moves perform, in their order. -/
def performedIds (moves : List EnvMove) : List Nat := moves.filterMap performedId?

/-- The event a performance makes. -/
def perfEvent? : EnvMove → Option Event
  | .perf id ok _ => some (.perf id ok)
  | _ => none

theorem performedIds_append (p q : List EnvMove) : performedIds (p ++ q) = performedIds p ++ performedIds q :=
  List.filterMap_append

/-- The moves of a batch of `n` transfers: the engine's, and each transfer's performance after its submission. -/
structure Schedule (base n : Nat) (rx : Nat → Nat) (moves : List EnvMove) : Prop where
  runs   : moves.count .run = n + 2
  length : moves.length = 2 * n + 2
  after  : ∀ k < n, ∃ before after, moves = before ++ .perf (base + k) true (rx k) :: after ∧
    k + 2 ≤ before.count .run

theorem nodup_performances (base n : Nat) (rx : Nat → Nat) :
    ((List.range n).map fun k => EnvMove.perf (base + k) true (rx k)).Nodup :=
  List.nodup_range.map fun a b e => by
    simp only [EnvMove.perf.injEq] at e
    omega

section

variable {base n : Nat} {rx : Nat → Nat} {moves : List EnvMove} (h : Schedule base n rx moves)
include h

/-- Beside the engine's moves there are the performances of the batch's transfers, each once. -/
theorem Schedule.perm : (moves.filter fun m => !(m == .run)).Perm
    ((List.range n).map fun k => .perf (base + k) true (rx k)) := by
  have hsub : ((List.range n).map fun k => EnvMove.perf (base + k) true (rx k)) ⊆
      moves.filter fun m => !(m == .run) := by
    intro m hm
    obtain ⟨k, hk, rfl⟩ := List.mem_map.mp hm
    obtain ⟨before, after, hmoves, _⟩ := h.after k (List.mem_range.mp hk)
    exact List.mem_filter.mpr ⟨by simp [hmoves], by simp⟩
  have hlen : (moves.filter fun m => !(m == .run)).length = n := by
    have hcount := List.length_eq_countP_add_countP (fun m : EnvMove => m == .run) (l := moves)
    have hruns := h.runs
    have hlength := h.length
    rw [List.count] at hruns
    simp only [← List.countP_eq_length_filter]
    simp only [decide_not, Bool.decide_eq_true] at hcount
    omega
  exact (((nodup_performances base n rx).subperm hsub).perm_of_length_le (by simp [hlen])).symm

theorem Schedule.nodup : (moves.filter fun m => !(m == .run)).Nodup :=
  h.perm.nodup_iff.mpr (nodup_performances base n rx)

theorem Schedule.eq_perf {m : EnvMove} (hm : m ∈ moves) (hr : m ≠ .run) :
    ∃ k < n, m = .perf (base + k) true (rx k) := by
  have hmem := h.perm.subset (List.mem_filter.mpr ⟨hm, by simpa using hr⟩)
  obtain ⟨k, hk, e⟩ := List.mem_map.mp hmem
  exact ⟨k, List.mem_range.mp hk, e.symm⟩

/-- At its place in the schedule a performance comes after the submission and is the transfer's first. -/
theorem Schedule.perf_of_split {p q : List EnvMove} {k : Nat} (hk : k < n)
    (hsplit : moves = p ++ .perf (base + k) true (rx k) :: q) :
    k + 2 ≤ p.count .run ∧ base + k ∉ performedIds p := by
  have hnodup := h.nodup
  rw [hsplit, List.filter_append, List.filter_cons_of_pos (by simp)] at hnodup
  obtain ⟨_, hq, hdisj⟩ := List.nodup_append.mp hnodup
  have hnotq : EnvMove.perf (base + k) true (rx k) ∉ q := fun hmem =>
    (List.nodup_cons.mp hq).1 (List.mem_filter.mpr ⟨hmem, by simp⟩)
  constructor
  · obtain ⟨before, after, hmoves, hruns⟩ := h.after k hk
    rcases List.append_eq_append_iff.mp (hsplit.symm.trans hmoves) with ⟨c, rfl, hc⟩ | ⟨c, rfl, hc⟩
    · cases c with
      | nil => simpa using hruns
      | cons m c =>
        rw [List.cons_append, List.cons.injEq] at hc
        exact absurd (by rw [hc.2]; simp) hnotq
    · rw [List.count_append]
      omega
  · intro hmem
    obtain ⟨m, hm, hid⟩ := List.mem_filterMap.mp hmem
    have hne : m ≠ .run := by
      rintro rfl
      cases hid
    obtain ⟨j, _, rfl⟩ := h.eq_perf (hsplit ▸ List.mem_append_left _ hm) hne
    have hjk : base + j = base + k := Option.some.inj hid
    obtain rfl : j = k := by omega
    exact hdisj _ (List.mem_filter.mpr ⟨hm, by simp⟩) _ List.mem_cons_self rfl

/-- The whole schedule performs every transfer of the batch. -/
theorem Schedule.performed {k : Nat} (hk : k < n) : base + k ∈ performedIds moves := by
  obtain ⟨before, after, hmoves, _⟩ := h.after k hk
  rw [hmoves, performedIds_append]
  exact List.mem_append_right _ List.mem_cons_self

end

end Sys2Proof.Machine
end

section
/-! PROOF. A whole batch, whatever the times of its performances (R55, R56, R161, R162): where the engine and the transport
stand after each of its moves, and its end. -/

namespace Sys2Proof.Machine

/-- The registers that stand from the admission of a batch to its wait. -/
structure BatchKept (s : State) (fs : List Nat) (l : Bool) (u : State) : Prop where
  cfg         : u.cfg = s.cfg
  par         : u.par = s.par
  opening     : u.opening = none
  mode        : u.mode = .pipelined
  rdback      : u.rdback = false
  n           : u.n = fs.length
  latchReq    : u.latchReq = l
  failed      : u.failed = false
  frame       : u.frame.take fs.length = fs
  ids         : fs.length ≤ u.ids.length
  lineSync    : u.lineSync = s.lineSync
  lineLatch   : u.lineLatch = s.lineLatch
  lineAnswers : u.lineAnswers = s.lineAnswers

theorem BatchKept.table {s u : State} {fs : List Nat} {l : Bool} (h : BatchKept s fs l u) :
    sessionTable? u = sessionTable? s := by
  rw [sessionTable?, sessionTable?, h.par, h.cfg]

/-- The line of R143 a batch of `n` frames is at after `j` moves of the engine: S1, then S2 with one more frame submitted
by each move, then the wait. -/
inductive BatchLine (n j : Nat) (u : State) : Prop where
  | start (runs : j = 0) (pc : u.pc = .s1) (fsm : u.fsm = .submitting) (subIdx : u.subIdx = 0)
  | submitting (runs : j = u.subIdx + 1) (pc : u.pc = .s2) (fsm : u.fsm = .submitting) (le : u.subIdx ≤ n)
  | waiting (runs : j = n + 2) (pc : u.pc = .w1) (fsm : u.fsm = .awaitingCompletion) (subIdx : u.subIdx = n)

/-- Where a batch admitted in `s` stands after the moves `p`. -/
structure BatchPoint (s : State) (T : FamilyTable) (fs : List Nat) (l : Bool) (p : List EnvMove) (u : State) : Prop where
  kept      : BatchKept s fs l u
  line      : BatchLine fs.length (p.count .run) u
  ids       : awaitedIds u = freshIds s.transport u.subIdx
  transport : BatchTransport s.transport u.transport u.subIdx (performedIds p)
  trace     : ∃ es, u.trace = s.trace ++ es ∧
    es.filter isEngineEvent =
      List.zipWith (fun id f => .sub id f T.W) (freshIds s.transport u.subIdx) (fs.take u.subIdx) ∧
    es.filter (fun e => !isEngineEvent e) = p.filterMap perfEvent?

/-! ### The moves -/

theorem performedIds_run (p : List EnvMove) : performedIds (p ++ [.run]) = performedIds p := by
  simp [performedIds, performedId?]

theorem perfEvents_run (p : List EnvMove) : (p ++ [EnvMove.run]).filterMap perfEvent? = p.filterMap perfEvent? := by
  simp [perfEvent?]

theorem count_run_append (p : List EnvMove) : (p ++ [EnvMove.run]).count .run = p.count .run + 1 := by simp

/-- Line S2 with a frame to submit and room for it (R143 S2). -/
theorem engineStep_s2_submits {s : State} {T : FamilyTable} {f : Nat} (hs : s.fsm ≠ .idle) (hpc : s.pc = .s2)
    (more : s.subIdx < s.n) (clean : s.failed = false) (hT : sessionTable? s = some T)
    (slot : s.frame[s.subIdx]? = some f) (room : queueFull s.transport s.cfg.handle = false) :
    engineStep s = .next { s with
      transport := enqueue s.transport s.cfg.handle f T.W, ids := s.ids.set s.subIdx s.transport.nextId
      subIdx := s.subIdx + 1, trace := s.trace ++ [.sub s.transport.nextId f T.W] } := by
  simp [engineStep, hs, hpc, stepS2, more, clean, withTable_eq hT, slot, submit_accepted room, afterSubmit, emit]

/-- Line S2 with all frames submitted (R143 S3). -/
theorem engineStep_s2_leaves {s : State} (hs : s.fsm ≠ .idle) (hpc : s.pc = .s2) (last : s.subIdx = s.n) :
    engineStep s = .next { s with fsm := .awaitingCompletion, pc := .w1 } := by
  simp [engineStep, hs, hpc, stepS2, last]

/-- Line W1 of a write all of whose transfers have succeeded (R143 W1). -/
theorem engineStep_w1_ok {s : State} {c : Completion} {cs : List Completion} (hs : s.fsm ≠ .idle) (hpc : s.pc = .w1)
    (hn : s.subIdx ≠ 0) (hr : s.rdback = false) (hcs : completionsOf? s.transport (awaitedIds s) = some (c :: cs))
    (hok : ∀ d ∈ c :: cs, d.ok = true) :
    engineStep s = .next { s with
      pc := .w2, transport := clearCompletions s.transport (awaitedIds s)
      trace := s.trace ++ [.await (awaitedIds s) .ok] } := by
  have hanswer : awaitAnswer (c :: cs) = .ok := if_pos (List.all_eq_true.mpr hok)
  rw [engineStep_w1 hs hpc, stepW1_of_complete hn hcs, hanswer, takeRx_awaitReturns_ok]
  simp [hr]

/-- The performance of an outstanding transfer (R61). -/
theorem perform_outstanding {s : State} {id : Nat} (h : ∃ x ∈ s.transport.outstanding, x.id = id) (ok : Bool)
    (rx : Nat) : ∃ x, x.id = id ∧ perform id ok rx s = { s with
      transport := completeTransfer s.transport x ok rx, trace := s.trace ++ [.perf id ok] } := by
  obtain ⟨y, hy, hid⟩ := h
  obtain ⟨x, hx⟩ := Option.isSome_iff_exists.mp
    (List.find?_isSome.mpr ⟨y, hy, by simpa using hid⟩ : (s.transport.outstanding.find? fun x => x.id == id).isSome)
  exact ⟨x, by simpa using List.find?_some hx, by simp [perform, hx, emit]⟩

section

variable {s u : State} {T : FamilyTable} {fs : List Nat} {l : Bool} {p : List EnvMove} {rest : List Input}

/-- One submission of the batch (R54, R143 S2). -/
theorem BatchPoint.submits (h : BatchPoint s T fs l p u) (hT : sessionTable? s = some T)
    (hroom : outstandingOf s.transport s.cfg.handle + fs.length ≤ queueDepth s.transport s.cfg.handle)
    (hbox : u.inbox = .move .run :: rest) (runs : p.count .run = u.subIdx + 1) (pc : u.pc = .s2)
    (fsm : u.fsm = .submitting) (more : u.subIdx < fs.length) :
    ∃ v, step u = .next v ∧ v.inbox = rest ∧ BatchPoint s T fs l (p ++ [.run]) v := by
  obtain ⟨es, htrace, hengine, hperf⟩ := h.trace
  have hslot : u.frame[u.subIdx]? = some fs[u.subIdx] := by
    have hget : (u.frame.take fs.length)[u.subIdx]? = fs[u.subIdx]? := by rw [h.kept.frame]
    rw [List.getElem?_take_of_lt more] at hget
    rw [hget, List.getElem?_eq_getElem more]
  have hfull : queueFull u.transport u.cfg.handle = false := by
    rw [h.kept.cfg]
    exact h.transport.room more hroom
  have hlen : u.subIdx < u.ids.length := more.trans_le h.kept.ids
  have hzip : (freshIds s.transport u.subIdx).length = (fs.take u.subIdx).length := by
    rw [length_freshIds, List.length_take_of_le more.le]
  have hstep := (step_run hbox h.kept.opening).trans <| engineStep_s2_submits (T := T) (s := { u with inbox := rest })
    (by simp [fsm]) pc (by simpa [h.kept.n] using more) h.kept.failed (h.kept.table.trans hT) hslot hfull
  refine ⟨_, hstep, rfl, { h.kept with ids := by simpa using h.kept.ids }, ?_, ?_, ?_, ?_⟩
  · rw [count_run_append, runs]
    exact .submitting rfl pc fsm more
  · have hids := h.ids
    rw [awaitedIds] at hids ⊢
    rw [List.take_add_one, List.take_set_of_le (le_refl _), List.getElem?_set_self hlen, hids, freshIds_succ,
      h.transport.nextId]
    rfl
  · rw [performedIds_run]
    exact h.transport.enqueue _ _ _
  · refine ⟨es ++ [.sub u.transport.nextId fs[u.subIdx] T.W], by simp [htrace], ?_, ?_⟩
    · rw [List.filter_append, hengine, freshIds_succ, List.take_add_one, List.getElem?_eq_getElem more,
        List.zipWith_append hzip, ← h.transport.nextId]
      rfl
    · rw [List.filter_append, hperf, perfEvents_run]
      exact List.append_nil _

/-- A line of a batch that makes no event and moves neither slots nor transport. -/
theorem BatchPoint.goes (h : BatchPoint s T fs l p u) {f : Fsm} {q : EngineLine}
    (line : BatchLine fs.length (p.count .run + 1) { u with inbox := rest, fsm := f, pc := q }) :
    BatchPoint s T fs l (p ++ [.run]) { u with inbox := rest, fsm := f, pc := q } where
  kept := { h.kept with }
  line := by rw [count_run_append]; exact line
  ids := h.ids
  transport := by rw [performedIds_run]; exact h.transport
  trace := by rw [perfEvents_run]; exact h.trace

/-- A move of the engine before its wait. -/
theorem BatchPoint.run (h : BatchPoint s T fs l p u) (hT : sessionTable? s = some T)
    (hroom : outstandingOf s.transport s.cfg.handle + fs.length ≤ queueDepth s.transport s.cfg.handle)
    (hbox : u.inbox = .move .run :: rest) (hp : p.count .run < fs.length + 2) :
    ∃ v, step u = .next v ∧ v.inbox = rest ∧ BatchPoint s T fs l (p ++ [.run]) v := by
  have hstep := step_run hbox h.kept.opening
  cases h.line with
  | start runs pc fsm subIdx =>
    have he := engineStep_s1_pipelined (s := { u with inbox := rest }) (by simp [fsm]) pc h.kept.mode
    exact ⟨_, hstep.trans he, rfl, h.goes (.submitting (by simp [runs, subIdx]) rfl fsm (by simp [subIdx]))⟩
  | submitting runs pc fsm le =>
    rcases le.lt_or_eq with more | last
    · exact h.submits hT hroom hbox runs pc fsm more
    · have he := engineStep_s2_leaves (s := { u with inbox := rest }) (by simp [fsm]) pc (last.trans h.kept.n.symm)
      exact ⟨_, hstep.trans he, rfl, h.goes (.waiting (by omega) rfl rfl last)⟩
  | waiting runs => omega

/-- A performance of one of the batch's transfers after its submission (R55, R61). -/
theorem BatchPoint.perf (h : BatchPoint s T fs l p u) (h₀ : TransportOk s.transport) {k : Nat} (hk : k < fs.length)
    (rx : Nat) (hbox : u.inbox = .move (.perf (s.transport.nextId + k) true rx) :: rest)
    (hruns : k + 2 ≤ p.count .run) (hfirst : s.transport.nextId + k ∉ performedIds p) :
    ∃ v, step u = .next v ∧ v.inbox = rest ∧
      BatchPoint s T fs l (p ++ [.perf (s.transport.nextId + k) true rx]) v := by
  obtain ⟨es, htrace, hengine, hperf⟩ := h.trace
  have hsub : k < u.subIdx := by
    cases h.line with
    | start runs => omega
    | submitting runs => omega
    | waiting _ _ _ subIdx => omega
  have hfresh : s.transport.nextId + k ∈ freshIds s.transport u.subIdx := mem_freshIds.mpr ⟨k, hsub, rfl⟩
  obtain ⟨x, hx, e⟩ := perform_outstanding (s := { u with inbox := rest })
    (h.transport.exists_outstanding hfresh hfirst) true rx
  have hstep : step u = .next (perform (s.transport.nextId + k) true rx { u with inbox := rest }) := step_move hbox
  rw [e] at hstep
  refine ⟨_, hstep, rfl, { h.kept with }, ?_, h.ids, ?_, ?_⟩
  · have hcount : (p ++ [EnvMove.perf (s.transport.nextId + k) true rx]).count .run = p.count .run := by simp
    rw [hcount]
    cases h.line with
    | start runs pc fsm subIdx => exact .start runs pc fsm subIdx
    | submitting runs pc fsm le => exact .submitting runs pc fsm le
    | waiting runs pc fsm subIdx => exact .waiting runs pc fsm subIdx
  · have hids : performedIds (p ++ [.perf (s.transport.nextId + k) true rx]) = performedIds p ++ [x.id] := by
      rw [performedIds_append, hx]
      rfl
    rw [hids]
    exact h.transport.completeTransfer h₀ (hx ▸ hfresh) rx
  · refine ⟨es ++ [.perf (s.transport.nextId + k) true], by simp [htrace], ?_, ?_⟩
    · rw [List.filter_append, hengine]
      exact List.append_nil _
    · rw [List.filter_append, hperf, List.filterMap_append]
      rfl

/-- All moves of a schedule. -/
theorem BatchPoint.moves {rx : Nat → Nat} {moves : List EnvMove} (h₀ : TransportOk s.transport)
    (hsched : Schedule s.transport.nextId fs.length rx moves) (hT : sessionTable? s = some T)
    (hroom : outstandingOf s.transport s.cfg.handle + fs.length ≤ queueDepth s.transport s.cfg.handle) :
    ∀ {q p : List EnvMove} {u : State}, BatchPoint s T fs l p u → moves = p ++ q → u.inbox = q.map .move ++ rest →
      ∃ v, runSteps q.length u = .next v ∧ v.inbox = rest ∧ BatchPoint s T fs l moves v
  | [], p, u, h, hsplit, hbox => ⟨u, rfl, hbox, by simpa [hsplit] using h⟩
  | m :: q, p, u, h, hsplit, hbox => by
    obtain ⟨v, hstep, hvbox, hv⟩ : ∃ v, step u = .next v ∧ v.inbox = q.map .move ++ rest ∧
        BatchPoint s T fs l (p ++ [m]) v := by
      by_cases hm : m = .run
      · subst hm
        have hlt : p.count .run < fs.length + 2 := by
          have hruns := hsched.runs
          rw [hsplit, List.count_append, List.count_cons_self] at hruns
          omega
        exact h.run hT hroom hbox hlt
      · obtain ⟨k, hk, rfl⟩ := hsched.eq_perf (hsplit ▸ List.mem_append_right _ List.mem_cons_self) hm
        obtain ⟨hruns, hfirst⟩ := hsched.perf_of_split hk hsplit
        exact h.perf h₀ hk (rx k) hbox hruns hfirst
    obtain ⟨w, hrun, hw⟩ := BatchPoint.moves h₀ hsched hT hroom hv (by simp [hsplit]) hvbox
    exact ⟨w, (runSteps_next hstep).trans hrun, hw⟩

/-! ### The wait and the end -/

/-- After all its submissions a batch waits (R143 S3). -/
theorem BatchPoint.waiting (h : BatchPoint s T fs l p u) (hruns : p.count .run = fs.length + 2) :
    u.pc = .w1 ∧ u.fsm = .awaitingCompletion ∧ u.subIdx = fs.length := by
  cases h.line with
  | start runs => omega
  | submitting runs _ _ le => omega
  | waiting _ pc fsm subIdx => exact ⟨pc, fsm, subIdx⟩

/-- The wait of a batch all of whose transfers have been performed, and line W2 (R56, R143). -/
theorem BatchPoint.wait (h : BatchPoint s T fs l p u) (h₀ : TransportOk s.transport) (hne : fs ≠ [])
    (hruns : p.count .run = fs.length + 2) (hall : ∀ k < fs.length, s.transport.nextId + k ∈ performedIds p)
    (hbox : u.inbox = runs 2 ++ rest) :
    ∃ v, runSteps 2 u = .next v ∧ v.pc = .w3 ∧ v.fsm ≠ .idle ∧ v.inbox = rest ∧ BatchKept s fs l v ∧
      v.trace = u.trace ++ [.await (freshIds s.transport fs.length) .ok] ∧
      v.transport.outstanding = s.transport.outstanding ∧ v.transport.completions = s.transport.completions := by
  obtain ⟨pc, fsm, subIdx⟩ := h.waiting hruns
  have hpos : fs.length ≠ 0 := by simpa using hne
  have hdone : ∀ id ∈ freshIds s.transport fs.length, id ∈ performedIds p := fun id hid => by
    obtain ⟨k, hk, rfl⟩ := mem_freshIds.mp hid
    exact hall k hk
  have htransport := subIdx ▸ h.transport
  have hids : awaitedIds u = freshIds s.transport fs.length := subIdx ▸ h.ids
  obtain ⟨cs, hcs, hok⟩ := htransport.complete h₀ hdone
  obtain ⟨c, cs, rfl⟩ : ∃ c cs', cs = c :: cs' := List.exists_cons_of_ne_nil <| by
    rintro rfl
    have hlen := congrArg List.length (completionsOf?_some hcs).1
    rw [length_freshIds] at hlen
    exact hpos hlen.symm
  have hawaited : awaitedIds { u with inbox := runs 1 ++ rest } = freshIds s.transport fs.length := hids
  have hw1 := engineStep_w1_ok (s := { u with inbox := runs 1 ++ rest }) (by simp [fsm]) pc (subIdx ▸ hpos)
    h.kept.rdback (hids ▸ hcs) hok
  rw [hawaited] at hw1
  refine ⟨_, runSteps_engine hbox h.kept.opening hw1 <| runSteps_engine rfl h.kept.opening
    (engineStep_w2_pipelined (by simp [fsm]) rfl h.kept.mode) (runSteps_zero _), rfl, by simp [fsm], rfl,
    { h.kept with }, rfl, htransport.outstanding_eq hdone, htransport.clearCompletions h₀⟩

end

theorem encodeAll_of_map {T : FamilyTable} : ∀ {ws : List RegisterWord} {fs : List Nat},
    ws.map (encodeValue T) = fs.map .ok → encodeAll T ws = .ok fs
  | [], [], _ => rfl
  | [], _ :: _, h | _ :: _, [], h => by simp at h
  | w :: ws, f :: fs, h => by
    rw [List.map_cons, List.map_cons, List.cons.injEq] at h
    rw [encodeAll, h.1, encodeAll_of_map h.2]

/-- A batch in words the family can carry, no longer than the pipeline depth, is admitted (R142). -/
theorem execWriteBatch_admits {s : State} {T : FamilyTable} {ws : List RegisterWord} {fs : List Nat}
    (hv : s.sessionValid = true) (hs : s.fsm = .idle) (hT : sessionTable? s = some T) (hdepth : ws.length ≤ s.cfg.depth)
    (hfs : ws.map (encodeValue T) = fs.map .ok) (l : Bool) :
    execWriteBatch ws l s = .next (loadEngine .pipelined false fs l s) := by
  have hshort : batchTooLong .pipelined ws s = false := by simpa [batchTooLong] using hdepth
  simp [execWriteBatch, admission, hv, hs, withTable_eq hT, readBackMissing, hshort, encodeAll_of_map hfs]

/-- Its presentation is the step that loads it (R85). -/
theorem step_writeBatch_admits {s : State} {T : FamilyTable} {ws : List RegisterWord} {fs : List Nat} {l : Bool}
    {rest : List Input} (hv : s.sessionValid = true) (hs : s.fsm = .idle) (hT : sessionTable? s = some T)
    (hdepth : ws.length ≤ s.cfg.depth) (hfs : ws.map (encodeValue T) = fs.map .ok)
    (hwf : (Instr.hostWriteBatch ws l).wf = true) (hbox : s.inbox = .port (encode (.hostWriteBatch ws l)) :: rest) :
    step s = .next (loadEngine .pipelined false fs l { s with inbox := rest }) := by
  rw [step_port hbox, present, decode_encode_hostWriteBatch hwf]
  exact execWriteBatch_admits (s := { s with inbox := rest }) hv hs hT hdepth hfs l

/-- What admission loads for a batch, before any move. -/
theorem BatchPoint.loaded {s : State} (T : FamilyTable) {fs : List Nat} {l : Bool} (i : List Input)
    (ho : s.opening = none) (hlen : fs.length ≤ s.ids.length) :
    BatchPoint s T fs l [] (loadEngine .pipelined false fs l { s with inbox := i }) where
  kept := ⟨rfl, rfl, ho, rfl, rfl, rfl, rfl, rfl, List.take_left, hlen, rfl, rfl, rfl⟩
  line := .start rfl rfl rfl rfl
  ids := rfl
  transport := .start s.transport
  trace := ⟨[], by simp, rfl, rfl⟩

end Sys2Proof.Machine

open Sys2Proof Sys2Proof.Machine in
/-- Settles O46: the batch is admitted, its moves are followed one by one, and then come the wait and the end of a
confirmed operation. -/
theorem batchRunsInAnyCompletionOrder : Obligations.BatchRunsInAnyCompletionOrder := by
  intro s T ws fs l moves rx answers rest hinv hv hs hT hne hdepth hwf hfs hans hroom id ids pulsed hruns hlength hafter
    hbox
  have hlen : fs.length = ws.length := by simpa using (congrArg List.length hfs).symm
  have hfsne : fs ≠ [] := by
    rintro rfl
    exact hne (List.length_eq_zero_iff.mp hlen.symm)
  have ho : s.opening = none := by
    rw [Option.eq_none_iff_forall_ne_some]
    intro o ho
    simpa [hv] using (hinv.opening o ho).noSession
  have hslots : fs.length ≤ s.ids.length := by
    have := (hinv.session hv).depth
    have := hinv.idsLen
    omega
  rw [← hlen] at hroom hruns hlength
  have hsched : Schedule s.transport.nextId fs.length rx moves := ⟨hruns, hlength, hlen ▸ hafter⟩
  rw [List.cons_append, List.cons_append, List.append_assoc] at hbox
  have hport := step_writeBatch_admits hv hs hT hdepth hfs hwf hbox
  obtain ⟨u, hmoves, hubox, hu⟩ :=
    (BatchPoint.loaded T _ ho hslots).moves hinv.transport hsched hT hroom (p := []) rfl rfl
  have hsplit : runs (if l then 7 else 6) ++ rest = runs 2 ++ (runs (if l then 5 else 4) ++ rest) := by
    cases l <;> rfl
  obtain ⟨v, hwait, hpc, hfsm, hvbox, hk, htrace, hout, hcomp⟩ :=
    hu.wait hinv.transport hfsne hruns (fun _ => hsched.performed) (hubox.trans hsplit)
  have hend := runSteps_confirmed hfsm hk.opening hk.rdback (hk.table.trans hT) hpc hk.failed
    (hk.lineAnswers.trans hans) (by rw [hk.latchReq]; exact hvbox)
  have hrun := runSteps_trans (runSteps_one hport) (runSteps_trans hmoves (runSteps_trans hwait hend))
  have hsteps : 1 + (moves.length + (2 + if v.latchReq then 5 else 4)) = moves.length + if l then 8 else 7 := by
    rw [hk.latchReq]
    cases l <;> simp <;> omega
  have hop : opInFlight v = .writeBatchOp := by simp [opInFlight, hk.mode]
  obtain ⟨es, hes, hengine, hperf⟩ := hu.trace
  rw [(hu.waiting hruns).2.2, List.take_length] at hengine
  rw [hsteps] at hrun
  have hids : ids = freshIds s.transport fs.length := by rw [hlen]; rfl
  have hpulsed : (v.latchReq = true ∧ v.cfg.pins.latch ≠ none) = pulsed := by rw [hk.latchReq, hk.cfg]
  refine ⟨_, es, hrun, ?_, hids ▸ hengine, hperf.trans ?_, rfl, rfl, hk.lineSync, ?_, ?_, hout, hcomp, rfl⟩
  · simp only [hpulsed, htrace, hes, hop, hids]
  · exact List.filterMap_congr fun m _ => by cases m <;> rfl
  · simp only [hpulsed, hk.par, hk.lineLatch]
  · simp only [hpulsed, hk.lineAnswers, hans]
end

section
/-! PROOF. The fields of a frame value, bit by bit (R7, R71, R72): what a field reads of an assembled frame, and that a
value without reserved bits is its five fields put together. -/

namespace Sys2Proof

theorem inField_eq_true {lo w i : Nat} : inField lo w i = true ↔ lo ≤ i ∧ i < lo + w := by simp [inField]

theorem fieldOf_eq (f lo w : Nat) : fieldOf f lo w = f / 2 ^ lo % 2 ^ w := by
  rw [fieldOf, Nat.shiftRight_eq_div_pow]

theorem fieldOf_lt (f lo w : Nat) : fieldOf f lo w < 2 ^ w := Nat.mod_lt _ (Nat.two_pow_pos w)

theorem testBit_fieldOf (f lo w i : Nat) : (fieldOf f lo w).testBit i = (decide (i < w) && f.testBit (lo + i)) := by
  rw [fieldOf, Nat.testBit_mod_two_pow, Nat.testBit_shiftRight]

/-- A field put back at its place keeps the bits of its place and no other. -/
theorem testBit_fieldOf_shiftLeft (f lo w i : Nat) :
    (fieldOf f lo w <<< lo).testBit i = (inField lo w i && f.testBit i) := by
  rw [Nat.testBit_shiftLeft, testBit_fieldOf, inField]
  by_cases hlo : lo ≤ i
  · have hadd : lo + (i - lo) = i := by omega
    have hlt : i - lo < w ↔ i < lo + w := by omega
    simp [hlo, hadd, hlt]
  · simp [hlo]

theorem fieldOf_shiftLeft_self {lo w v : Nat} (hv : v < 2 ^ w) : fieldOf (v <<< lo) lo w = v := by
  rw [fieldOf, Nat.shiftLeft_shiftRight, Nat.mod_eq_of_lt hv]

theorem testBit_shiftLeft_of_not_inField {lo w v i : Nat} (hv : v < 2 ^ w) (h : inField lo w i = false) :
    (v <<< lo).testBit i = false := by
  have hbit := testBit_fieldOf_shiftLeft (v <<< lo) lo w i
  rwa [fieldOf_shiftLeft_self hv, h, Bool.false_and] at hbit

theorem fieldOf_or (f g lo w : Nat) : fieldOf (f ||| g) lo w = fieldOf f lo w ||| fieldOf g lo w := by
  rw [fieldOf, Nat.shiftRight_or_distrib, Nat.or_mod_two_pow]
  rfl

/-- A field is 0 exactly where each of its bits is. -/
theorem fieldOf_eq_zero_iff {f lo w : Nat} :
    fieldOf f lo w = 0 ↔ ∀ i, inField lo w i = true → f.testBit i = false := by
  constructor
  · intro h i hi
    have hbit := testBit_fieldOf_shiftLeft f lo w i
    simpa [h, hi] using hbit.symm
  · intro h
    refine Nat.zero_of_testBit_eq_false fun i => ?_
    rw [testBit_fieldOf]
    by_cases hi : i < w
    · simp [h (lo + i) (inField_eq_true.mpr (by omega))]
    · simp [hi]

/-- A value in its own field shows nothing in a field that shares no bit with it (R71 (b)). -/
theorem fieldOf_shiftLeft_of_disjoint {lo w lo' w' v : Nat} (hv : v < 2 ^ w)
    (h : disjointFields lo w lo' w' = true ∨ disjointFields lo' w' lo w = true) : fieldOf (v <<< lo) lo' w' = 0 := by
  refine fieldOf_eq_zero_iff.mpr fun i hi => testBit_shiftLeft_of_not_inField hv ?_
  rw [inField_eq_true] at hi
  rw [Bool.eq_false_iff, ne_eq, inField_eq_true]
  simp only [disjointFields, Bool.or_eq_true, decide_eq_true_eq] at h
  omega

/-- The direction field is the direction bit. -/
theorem fieldOf_one (f lo : Nat) : fieldOf f lo 1 = (f.testBit lo).toNat := by
  rw [fieldOf_eq, Nat.toNat_testBit, pow_one]

/-- The codes and values of a frame fit their fields (R71 (c), R101). -/
structure FieldsFit (T : FamilyTable) (dir cmd chan data mode : Nat) : Prop where
  dir  : dir < 2 ^ 1
  cmd  : cmd < 2 ^ T.cmdW
  chan : chan < 2 ^ T.addrW
  data : data < 2 ^ T.dataW
  mode : mode < 2 ^ T.modeW

section

variable {T : FamilyTable} {dir cmd chan data mode : Nat}

/-- Each field of an assembled frame reads what was put there (R71 (b), R72). -/
theorem FieldsFit.fieldOf_assemble (h : FieldsFit T dir cmd chan data mode) (hT : T.fieldsDisjoint = true) :
    let f := assemble T dir cmd chan data mode
    fieldOf f T.dirPos 1 = dir ∧ fieldOf f T.cmdLo T.cmdW = cmd ∧ fieldOf f T.addrLo T.addrW = chan ∧
      fieldOf f T.dataLo T.dataW = data ∧ fieldOf f T.modeLo T.modeW = mode := by
  simp only [FamilyTable.fieldsDisjoint, Bool.and_eq_true] at hT
  obtain ⟨hdir, hcmd, hchan, hdata, hmode⟩ := h
  simp (disch := simp only [*, true_or, or_true]) only [assemble, fieldOf_or, fieldOf_shiftLeft_self,
    fieldOf_shiftLeft_of_disjoint hdir, fieldOf_shiftLeft_of_disjoint hcmd, fieldOf_shiftLeft_of_disjoint hchan,
    fieldOf_shiftLeft_of_disjoint hdata, fieldOf_shiftLeft_of_disjoint hmode, Nat.or_zero, Nat.zero_or, and_self]

end

theorem isReserved_eq_true {T : FamilyTable} {i : Nat} : T.isReserved i = true ↔
    i < T.W ∧ inField T.dirPos 1 i = false ∧ inField T.cmdLo T.cmdW i = false ∧ inField T.addrLo T.addrW i = false ∧
      inField T.dataLo T.dataW i = false ∧ inField T.modeLo T.modeW i = false := by
  simp [FamilyTable.isReserved, and_assoc]

/-- An assembled frame has no reserved bit set (R70, R72). -/
theorem FieldsFit.reserved_clear {T : FamilyTable} {dir cmd chan data mode : Nat}
    (h : FieldsFit T dir cmd chan data mode) {i : Nat} (hi : T.isReserved i = true) :
    (assemble T dir cmd chan data mode).testBit i = false := by
  obtain ⟨-, hdir, hcmd, hchan, hdata, hmode⟩ := isReserved_eq_true.mp hi
  simp [assemble, testBit_shiftLeft_of_not_inField h.dir hdir, testBit_shiftLeft_of_not_inField h.cmd hcmd,
    testBit_shiftLeft_of_not_inField h.chan hchan, testBit_shiftLeft_of_not_inField h.data hdata,
    testBit_shiftLeft_of_not_inField h.mode hmode]

/-- The reserved bits are checked one by one (R104). -/
theorem reservedClear_eq_true {T : FamilyTable} {f : Nat} :
    T.reservedClear f = true ↔ ∀ i, T.isReserved i = true → f.testBit i = false := by
  simp only [FamilyTable.reservedClear, List.all_eq_true, List.mem_range, Bool.not_eq_true', Bool.and_eq_false_iff]
  constructor
  · intro h i hi
    exact (h i (isReserved_eq_true.mp hi).1).resolve_left (by simp [hi])
  · intro h i _
    by_cases hi : T.isReserved i = true
    · exact .inr (h i hi)
    · exact .inl (by simpa using hi)

/-- A frame value without reserved bits is its five fields put together (R72, R104). -/
theorem assemble_fieldOf {T : FamilyTable} {f : Nat} (hf : f < 2 ^ T.W) (hres : T.reservedClear f = true) :
    assemble T (fieldOf f T.dirPos 1) (fieldOf f T.cmdLo T.cmdW) (fieldOf f T.addrLo T.addrW)
      (fieldOf f T.dataLo T.dataW) (fieldOf f T.modeLo T.modeW) = f := by
  refine Nat.eq_of_testBit_eq fun i => ?_
  simp only [assemble, Nat.testBit_or, testBit_fieldOf_shiftLeft, ← Bool.and_or_distrib_right]
  cases hbit : f.testBit i with
  | false => simp
  | true =>
    have hi : i < T.W := by
      by_contra hge
      simp [Nat.testBit_lt_two_pow (hf.trans_le (Nat.pow_le_pow_right (by decide) (not_lt.mp hge)))] at hbit
    by_contra hnone
    have hreserved : T.isReserved i = true := isReserved_eq_true.mpr (by simp_all)
    simp [reservedClear_eq_true.mp hres i hreserved] at hbit

end Sys2Proof
end

section
/-! PROOF. What ENCODE and DECODE answer (R72, R101, R104), each said once, and from that R80 and R81. -/

namespace Sys2Proof

/-! ### The rows of a table entry (R70, R71 (c)) -/

/-- Looking a row up by a key that no two rows share finds the row that has it. -/
theorem find?_key_eq_some_iff {α β : Type} [BEq β] [LawfulBEq β] {key : α → β} {l : List α} (h : (l.map key).Nodup)
    {k : β} {a : α} : l.find? (fun r => key r == k) = some a ↔ a ∈ l ∧ key a = k := by
  constructor
  · intro hfind
    exact ⟨List.mem_of_find?_eq_some hfind, by simpa using List.find?_some hfind⟩
  · rintro ⟨ha, rfl⟩
    cases hfind : l.find? (fun r => key r == key a) with
    | none => simpa using List.find?_eq_none.mp hfind a ha
    | some b =>
      have hkey : key b = key a := by simpa using List.find?_some hfind
      rw [List.inj_on_of_nodup_map h (List.mem_of_find?_eq_some hfind) ha hkey]

/-- The parts of R71 the codec rests on: whole bytes, fields that share no bit, and codes that fit and name one row. -/
structure TableRules (T : FamilyTable) : Prop where
  bytes     : T.W % 8 = 0
  disjoint  : T.fieldsDisjoint = true
  cmds      : (T.cmds.map (·.cmd)).Nodup
  cmdCodes  : (T.cmds.map (·.code)).Nodup
  cmdFits   : ∀ r ∈ T.cmds, r.code < 2 ^ T.cmdW
  chans     : (T.chans.map (·.chan)).Nodup
  chanCodes : (T.chans.map (·.code)).Nodup
  chanFits  : ∀ a ∈ T.chans, a.code < 2 ^ T.addrW

section

variable {T : FamilyTable} (hT : T.wf = true)
include hT

theorem tableRules_of_wf : TableRules T := by
  simp only [FamilyTable.wf, FamilyTable.widthsOk, FamilyTable.codesOk, Bool.and_eq_true, decide_eq_true_eq,
    List.all_eq_true] at hT
  obtain ⟨⟨⟨⟨⟨⟨⟨⟨_, bytes⟩, _⟩, _⟩, _⟩, _⟩, disjoint⟩,
    ⟨⟨⟨⟨cmds, cmdCodes⟩, cmdFits⟩, chans⟩, chanCodes⟩, chanFits⟩, _⟩ := hT
  exact ⟨bytes, disjoint, cmds, cmdCodes, cmdFits, chans, chanCodes, chanFits⟩

theorem cmdRow?_eq_some_iff {c : Command} {r : CmdRow} : T.cmdRow? c = some r ↔ r ∈ T.cmds ∧ r.cmd = c :=
  find?_key_eq_some_iff (tableRules_of_wf hT).cmds

theorem cmdOfCode?_eq_some_iff {k : Nat} {r : CmdRow} : T.cmdOfCode? k = some r ↔ r ∈ T.cmds ∧ r.code = k :=
  find?_key_eq_some_iff (tableRules_of_wf hT).cmdCodes

theorem chanRow?_eq_some_iff {c : Channel} {a : ChanRow} : T.chanRow? c = some a ↔ a ∈ T.chans ∧ a.chan = c :=
  find?_key_eq_some_iff (tableRules_of_wf hT).chans

theorem chanOfCode?_eq_some_iff {k : Nat} {a : ChanRow} : T.chanOfCode? k = some a ↔ a ∈ T.chans ∧ a.code = k :=
  find?_key_eq_some_iff (tableRules_of_wf hT).chanCodes

end

/-- The value of received bytes fits them (R47). -/
theorem frameOfBytes_lt (b : List Byte) : frameOfBytes b < 2 ^ (8 * b.length) := by
  induction b using List.reverseRecOn with
  | nil => exact Nat.one_pos
  | append_singleton b x ih =>
    have hx := x.isLt
    have hpow : 2 ^ (8 * (b ++ [x]).length) = 2 ^ (8 * b.length) * 256 := by
      rw [List.length_append, List.length_singleton, mul_add, pow_add]
      rfl
    rw [frameOfBytes_append, hpow]
    omega

/-! ### ENCODE -/

/-- What ENCODE puts into a frame, and for which word: the rows of its command and channel, data that fits, mode bits
the command takes, and the five fields assembled (R72, R101). -/
structure EncodesTo (T : FamilyTable) (w : RegisterWord) (r : CmdRow) (a : ChanRow) (f : Nat) : Prop where
  cmd   : T.cmdRow? w.command = some r
  chan  : T.chanRow? w.channel = some a
  data  : w.data < 2 ^ T.dataW
  mode  : modeAccepted T r.takesMode w.modeBits = true
  value : f = assemble T (dirBit T w.direction) r.code a.code w.data (modeValue w.modeBits)

theorem encodeValue_eq_ok_iff {T : FamilyTable} {w : RegisterWord} {f : Nat} :
    encodeValue T w = .ok f ↔ ∃ r a, EncodesTo T w r a f := by
  constructor
  · intro h
    obtain ⟨hrep, hf⟩ := Machine.encodeValue_ok h
    cases hr : T.cmdRow? w.command with
    | none => simp [frameValue?, hr] at hf
    | some r =>
      cases ha : T.chanRow? w.channel with
      | none => simp [frameValue?, hr, ha] at hf
      | some a =>
        simp only [frameValue?, hr, ha, Option.some.injEq] at hf
        simp only [representable, hr, ha, Bool.and_eq_true, decide_eq_true_eq] at hrep
        exact ⟨r, a, hr, ha, hrep.1, hrep.2, hf.symm⟩
  · rintro ⟨r, a, hr, ha, hdata, hmode, rfl⟩
    simp [encodeValue, representable, frameValue?, hr, ha, hdata, hmode]

theorem encodeWord_eq_ok_iff {T : FamilyTable} {w : RegisterWord} {b : List Byte} :
    encodeWord T w = .ok b ↔ ∃ f, encodeValue T w = .ok f ∧ b = frameBytes T.W f := by
  unfold encodeWord
  cases encodeValue T w <;> simp [eq_comm]

section

variable {T : FamilyTable} (hT : T.wf = true)
include hT

/-- The bytes of a family's frame value hold it (R47). -/
theorem frameOfBytes_frameBytes_of_wf {f : Nat} (hf : f < 2 ^ T.W) : frameOfBytes (frameBytes T.W f) = f := by
  obtain ⟨n, hn⟩ := Nat.dvd_of_mod_eq_zero (tableRules_of_wf hT).bytes
  rw [hn] at hf ⊢
  exact frameOfBytes_frameBytes n hf

theorem EncodesTo.fieldsFit {w : RegisterWord} {r : CmdRow} {a : ChanRow} {f : Nat} (h : EncodesTo T w r a f) :
    FieldsFit T (dirBit T w.direction) r.code a.code w.data (modeValue w.modeBits) where
  dir  := Machine.dirBit_lt T _
  cmd  := (tableRules_of_wf hT).cmdFits r ((cmdRow?_eq_some_iff hT).mp h.cmd).1
  chan := (tableRules_of_wf hT).chanFits a ((chanRow?_eq_some_iff hT).mp h.chan).1
  data := h.data
  mode := Machine.modeValue_lt h.mode

/-- The bytes ENCODE answers hold the assembled fields (R47, R72). -/
theorem encodesTo_of_encodeWord {w : RegisterWord} {b : List Byte} (h : encodeWord T w = .ok b) :
    ∃ r a, EncodesTo T w r a (frameOfBytes b) := by
  obtain ⟨f, hf, rfl⟩ := encodeWord_eq_ok_iff.mp h
  rw [frameOfBytes_frameBytes_of_wf hT (Machine.encodeValue_lt hT hf)]
  exact encodeValue_eq_ok_iff.mp hf

end

/-! ### DECODE -/

/-- What DECODE finds in a frame value it accepts as `w` (R104). -/
structure DecodesTo (T : FamilyTable) (f : Nat) (r : CmdRow) (a : ChanRow) (w : RegisterWord) : Prop where
  reserved  : T.reservedClear f = true
  cmdCode   : T.cmdOfCode? (fieldOf f T.cmdLo T.cmdW) = some r
  chanCode  : T.chanOfCode? (fieldOf f T.addrLo T.addrW) = some a
  direction : w.direction = decodeDir T (f.testBit T.dirPos)
  command   : w.command = r.cmd
  channel   : w.channel = a.chan
  data      : w.data = fieldOf f T.dataLo T.dataW
  modeBits  : decodeMode r.takesMode (fieldOf f T.modeLo T.modeW) = some w.modeBits

theorem decodeValue_eq_ok_iff {T : FamilyTable} {f : Nat} {w : RegisterWord} :
    decodeValue T f = .ok w ↔ ∃ r a, DecodesTo T f r a w := by
  constructor
  · intro h
    unfold decodeValue at h
    split at h
    case isFalse => cases h
    case isTrue hres =>
      split at h
      case h_1 => cases h
      case h_2 r hr =>
        split at h
        case h_1 => cases h
        case h_2 a ha =>
          split at h
          case h_1 => cases h
          case h_2 m hm =>
            cases h
            exact ⟨r, a, hres, hr, ha, rfl, rfl, rfl, rfl, hm⟩
  · obtain ⟨d, c, ch, x, m⟩ := w
    rintro ⟨r, a, hres, hr, ha, rfl, rfl, rfl, rfl, hm⟩
    simp only [decodeValue, hres, hr, ha, hm, if_true]

/-- A frame of the right length that DECODE accepts as no word is refused with `MalformedFrame` (R104). -/
theorem decodeWord_malformed {T : FamilyTable} {b : List Byte} (hlen : b.length = T.L)
    (h : ∀ r a w, ¬ DecodesTo T (frameOfBytes b) r a w) : decodeWord T b = .error .malformedFrame := by
  cases hdec : decodeWord T b with
  | error e => rw [Machine.decodeWord_error hdec]
  | ok w =>
    rw [decodeWord, if_pos hlen] at hdec
    obtain ⟨r, a, hw⟩ := decodeValue_eq_ok_iff.mp hdec
    exact absurd hw (h r a w)

theorem decodeMode_false {m : Nat} {o : Option Nat} : decodeMode false m = some o ↔ m = 0 ∧ o = none := by
  by_cases hm : m = 0 <;> simp [decodeMode, hm, eq_comm]

theorem decodeMode_true {m : Nat} {o : Option Nat} : decodeMode true m = some o ↔ o = some m := by
  simp [decodeMode, eq_comm]

/-- The direction bit DECODE reads is the one ENCODE writes (R72, R104). -/
theorem dirBit_decodeDir (T : FamilyTable) (bit : Bool) : dirBit T (decodeDir T bit) = bit.toNat := by
  cases bit <;> cases h : T.dirWrite <;> simp [decodeDir, dirBit, h]

/-- The mode bits DECODE hands back are ones ENCODE accepts, and stand for the mode field (R101, R104). -/
theorem modeAccepted_of_decodeMode {T : FamilyTable} {takesMode : Bool} {m : Nat} {o : Option Nat}
    (hm : m < 2 ^ T.modeW) (h : decodeMode takesMode m = some o) :
    modeAccepted T takesMode o = true ∧ modeValue o = m := by
  cases takesMode with
  | false =>
    obtain ⟨rfl, rfl⟩ := decodeMode_false.mp h
    exact ⟨rfl, rfl⟩
  | true =>
    obtain rfl := decodeMode_true.mp h
    simpa [modeAccepted, modeValue] using hm

section

variable {T : FamilyTable} (hT : T.wf = true)
include hT

/-- What DECODE accepts, ENCODE gives back (R112). -/
theorem DecodesTo.encodesTo {f : Nat} {r : CmdRow} {a : ChanRow} {w : RegisterWord} (h : DecodesTo T f r a w)
    (hf : f < 2 ^ T.W) : EncodesTo T w r a f := by
  obtain ⟨hr, hcode⟩ := (cmdOfCode?_eq_some_iff hT).mp h.cmdCode
  obtain ⟨ha, hchan⟩ := (chanOfCode?_eq_some_iff hT).mp h.chanCode
  obtain ⟨hmode, hvalue⟩ := modeAccepted_of_decodeMode (fieldOf_lt _ _ _) h.modeBits
  exact {
    cmd   := (cmdRow?_eq_some_iff hT).mpr ⟨hr, h.command.symm⟩
    chan  := (chanRow?_eq_some_iff hT).mpr ⟨ha, h.channel.symm⟩
    data  := h.data ▸ fieldOf_lt _ _ _
    mode  := hmode
    value := by
      rw [h.direction, dirBit_decodeDir, ← fieldOf_one, hcode, hchan, h.data, hvalue, assemble_fieldOf hf h.reserved] }

/-- The bytes of a frame DECODE accepts are those ENCODE answers for the word (R47, R112). -/
theorem DecodesTo.encodeWord_eq {b : List Byte} {r : CmdRow} {a : ChanRow} {w : RegisterWord} (hlen : b.length = T.L)
    (h : DecodesTo T (frameOfBytes b) r a w) : encodeWord T w = .ok b := by
  have hW : T.W = 8 * b.length := by
    have := (tableRules_of_wf hT).bytes
    rw [hlen, FamilyTable.L]
    omega
  have hbytes : frameBytes T.W (frameOfBytes b) = b := by rw [hW, frameBytes_frameOfBytes]
  have hlt : frameOfBytes b < 2 ^ T.W := by rw [hW]; exact frameOfBytes_lt b
  exact encodeWord_eq_ok_iff.mpr ⟨_, encodeValue_eq_ok_iff.mpr ⟨r, a, h.encodesTo hT hlt⟩, hbytes.symm⟩

end

end Sys2Proof

open Sys2Proof in
/-- Settles O2: the frame is its assembled fields, and each field reads what was put there. -/
theorem encodeProducesOnlyLegalFrames : Obligations.EncodeProducesOnlyLegalFrames := by
  intro T w b hT h
  obtain ⟨r, a, henc⟩ := encodesTo_of_encodeWord hT h
  have hfit := henc.fieldsFit hT
  obtain ⟨-, hcmd, hchan, -, hmode⟩ := hfit.fieldOf_assemble (tableRules_of_wf hT).disjoint
  rw [← henc.value] at hcmd hchan hmode
  refine ⟨fun i hi => ?_, ⟨r, ?_, hcmd.symm, fun htakes => ?_⟩, ⟨a, ?_, hchan.symm⟩⟩
  · rw [henc.value]
    exact hfit.reserved_clear hi
  · exact ((cmdRow?_eq_some_iff hT).mp henc.cmd).1
  · have haccepted := henc.mode
    rw [hmode]
    cases hm : w.modeBits with
    | none => rfl
    | some v => simp [htakes, hm, modeAccepted] at haccepted
  · exact ((chanRow?_eq_some_iff hT).mp henc.chan).1

open Sys2Proof in
/-- Settles O7: an accepted frame is one ENCODE answers, has no reserved bit set, and its codes are assigned. -/
theorem decodeRefusesForeignFrames : Obligations.DecodeRefusesForeignFrames := by
  intro T b hT hlen
  refine ⟨fun hforeign => ?_, fun ⟨i, hi, hset⟩ => ?_, fun hcmd => ?_, fun hchan => ?_,
    fun r hr hcode htakes hmode => ?_⟩ <;> refine decodeWord_malformed hlen fun r' a w h => ?_
  · exact hforeign w (h.encodeWord_eq hT hlen)
  · simp [reservedClear_eq_true.mp h.reserved i hi] at hset
  · obtain ⟨hr, hcode⟩ := (cmdOfCode?_eq_some_iff hT).mp h.cmdCode
    exact hcmd r' hr hcode
  · obtain ⟨ha, hcode⟩ := (chanOfCode?_eq_some_iff hT).mp h.chanCode
    exact hchan a ha hcode
  · have hrow := (cmdOfCode?_eq_some_iff hT).mpr ⟨hr, hcode⟩
    obtain rfl : r = r' := Option.some.inj (hrow.symm.trans h.cmdCode)
    have hbits := h.modeBits
    rw [htakes] at hbits
    exact hmode (decodeMode_false.mp hbits).1
end

section
/-! PROOF. The opcode maps of the two reference families (R77, R79): their masks as fields, their rows by the codes of
R86, and what DECODE finds in their frames. -/

namespace Sys2Proof.Machine

/-! ### Masks and fields -/

/-- A mask over the bits of one field keeps that field at its place. -/
theorem and_fieldMask (f lo w : Nat) : f &&& (2 ^ w - 1) <<< lo = fieldOf f lo w <<< lo := by
  refine Nat.eq_of_testBit_eq fun i => ?_
  rw [Nat.testBit_and, testBit_fieldOf_shiftLeft, Nat.testBit_shiftLeft, Nat.testBit_two_pow_sub_one, inField,
    Bool.and_comm]
  by_cases hlo : lo ≤ i
  · have hlt : i - lo < w ↔ i < lo + w := by omega
    simp [hlo, hlt]
  · simp [hlo]

theorem and_fieldMask_eq_zero_iff {f lo w : Nat} : f &&& (2 ^ w - 1) <<< lo = 0 ↔ fieldOf f lo w = 0 := by
  rw [and_fieldMask, Nat.shiftLeft_eq_zero_iff]

theorem and_or_eq_zero_iff {f m n : Nat} : f &&& (m ||| n) = 0 ↔ f &&& m = 0 ∧ f &&& n = 0 := by
  rw [Nat.and_or_distrib_left, Nat.or_eq_zero_iff]

/-- A masked value is a code at the place of the topmost field of the mask exactly where that field holds the code and
the bits the mask keeps below it are 0. -/
theorem and_mask_eq_shiftLeft_iff {f k lo w m : Nat} (hm : m < 2 ^ lo) :
    f &&& ((2 ^ w - 1) <<< lo ||| m) = k <<< lo ↔ fieldOf f lo w = k ∧ f &&& m = 0 := by
  have hlow : f &&& m < 2 ^ lo := Nat.and_lt_two_pow f hm
  rw [Nat.and_or_distrib_left, and_fieldMask]
  constructor
  · intro h
    have hhigh := congrArg (· >>> lo) h
    simp only [Nat.shiftRight_or_distrib, Nat.shiftLeft_shiftRight, Nat.shiftRight_eq_zero _ _ hlow,
      Nat.or_zero] at hhigh
    have hmod := congrArg (· % 2 ^ lo) h
    simpa [Nat.or_mod_two_pow, Nat.shiftLeft_eq, Nat.mod_eq_of_lt hlow, hhigh] using hmod
  · rintro ⟨rfl, hzero⟩
    rw [hzero, Nat.or_zero]

/-! ### What a family accepts -/

theorem exists_decodeMode_iff {takesMode : Bool} {m : Nat} :
    (∃ o, decodeMode takesMode m = some o) ↔ (takesMode = false → m = 0) := by
  cases takesMode <;> simp [decodeMode_true, decodeMode_false]

section

variable {T : FamilyTable} (hT : T.wf = true)
include hT

theorem decodeWord_frameBytes {f : Nat} (hf : f < 2 ^ T.W) : decodeWord T (frameBytes T.W f) = decodeValue T f := by
  have hlen : (frameBytes T.W f).length = T.L := frameBytes_length T.W f
  rw [decodeWord, if_pos hlen, frameOfBytes_frameBytes_of_wf hT hf]

/-- DECODE accepts a frame value as a command exactly where no reserved bit is 1, the command's row has the code of the
command field, that row takes mode bits or the mode field is 0, and the address is assigned (R104). -/
theorem exists_decodeValue_command_iff {f : Nat} {c : Command} :
    (∃ w, decodeValue T f = .ok w ∧ w.command = c) ↔
      T.reservedClear f = true ∧
      (∃ r ∈ T.cmds, r.cmd = c ∧ r.code = fieldOf f T.cmdLo T.cmdW ∧
        (r.takesMode = false → fieldOf f T.modeLo T.modeW = 0)) ∧
      ∃ a ∈ T.chans, a.code = fieldOf f T.addrLo T.addrW := by
  constructor
  · rintro ⟨w, hw, rfl⟩
    obtain ⟨r, a, h⟩ := decodeValue_eq_ok_iff.mp hw
    obtain ⟨hr, hcmd⟩ := (cmdOfCode?_eq_some_iff hT).mp h.cmdCode
    exact ⟨h.reserved, ⟨r, hr, h.command.symm, hcmd, exists_decodeMode_iff.mp ⟨_, h.modeBits⟩⟩,
      a, (chanOfCode?_eq_some_iff hT).mp h.chanCode⟩
  · rintro ⟨hres, ⟨r, hr, rfl, hcmd, hmode⟩, a, hchan⟩
    obtain ⟨m, hm⟩ := exists_decodeMode_iff.mpr hmode
    have hword : DecodesTo T f r a ⟨decodeDir T (f.testBit T.dirPos), r.cmd, a.chan, fieldOf f T.dataLo T.dataW, m⟩ :=
      ⟨hres, (cmdOfCode?_eq_some_iff hT).mpr ⟨hr, hcmd⟩, (chanOfCode?_eq_some_iff hT).mpr hchan, rfl, rfl, rfl, rfl, hm⟩
    exact ⟨_, decodeValue_eq_ok_iff.mpr ⟨r, a, hword⟩, rfl⟩

end

/-- The codes of R86 number the channels from 0 to 7. -/
theorem exists_channelCode {k : Nat} (h : k < 8) : ∃ ch, channelCode ch = k := by
  interval_cases k
  exacts [⟨.A, rfl⟩, ⟨.B, rfl⟩, ⟨.C, rfl⟩, ⟨.D, rfl⟩, ⟨.E, rfl⟩, ⟨.F, rfl⟩, ⟨.G, rfl⟩, ⟨.H, rfl⟩]

/-! ### REF32 -/

theorem ref32_wf : ref32.wf = true := wf_of_table? (tag := 0) resetParams_wf rfl

/-- REF32 gives the commands their codes of R86, and mode bits to SpanMode and PowerMode (R76). -/
theorem mem_ref32_cmds {r : CmdRow} : r ∈ ref32.cmds ↔
    r.code = commandCode r.cmd ∧ (r.takesMode = true ↔ r.cmd = .spanMode ∨ r.cmd = .powerMode) := by
  obtain ⟨c, k, t⟩ := r
  cases c <;> simp [ref32, ref32With, commandCode]

/-- REF32 gives the channels A to D their codes of R86 (R76). -/
theorem mem_ref32_chans {a : ChanRow} : a ∈ ref32.chans ↔ a.code = channelCode a.chan ∧ a.code ≤ 3 := by
  obtain ⟨c, k⟩ := a
  cases c <;> simp [ref32, ref32With, channelCode] <;> omega

/-- The reserved bits of REF32 are 23 to 20 (R76). -/
theorem isReserved_ref32 (i : Nat) : ref32.isReserved i = inField 20 4 i := by
  rw [Bool.eq_iff_iff, isReserved_eq_true, inField_eq_true]
  simp only [Bool.eq_false_iff, ne_eq, inField_eq_true]
  simp only [ref32, ref32With]
  omega

theorem reservedClear_ref32 {f : Nat} : ref32.reservedClear f = true ↔ fieldOf f 20 4 = 0 := by
  simp only [reservedClear_eq_true, isReserved_ref32, fieldOf_eq_zero_iff]

/-- The masks and matches of R77 read the command field, the reserved bits, and the mode field where the command takes
no mode bits. -/
theorem and_ref32Mask_eq_iff {f : Nat} {c : Command} : f &&& ref32Mask c = ref32Match c ↔
    fieldOf f 27 4 = commandCode c ∧ fieldOf f 20 4 = 0 ∧
      (¬ (c = .spanMode ∨ c = .powerMode) → fieldOf f 16 4 = 0) := by
  have hcode : ref32Match c = commandCode c <<< 27 := by cases c <;> rfl
  rw [hcode]
  by_cases hc : c = .spanMode ∨ c = .powerMode
  · have hmask : ref32Mask c = (2 ^ 4 - 1) <<< 27 ||| (2 ^ 4 - 1) <<< 20 := by rcases hc with rfl | rfl <;> rfl
    rw [hmask, and_mask_eq_shiftLeft_iff (by decide), and_fieldMask_eq_zero_iff]
    simp [hc]
  · have hmask : ref32Mask c = (2 ^ 4 - 1) <<< 27 ||| ((2 ^ 4 - 1) <<< 20 ||| (2 ^ 4 - 1) <<< 16) := by
      cases c <;> simp_all [ref32Mask]
    rw [hmask, and_mask_eq_shiftLeft_iff (by decide), and_or_eq_zero_iff, and_fieldMask_eq_zero_iff,
      and_fieldMask_eq_zero_iff]
    simp [hc]

theorem ref32_accepts_iff {f : Nat} {c : Command} : (∃ w, decodeValue ref32 f = .ok w ∧ w.command = c) ↔
    f &&& ref32Mask c = ref32Match c ∧ fieldOf f 24 3 ≤ 3 := by
  rw [exists_decodeValue_command_iff ref32_wf, reservedClear_ref32, and_ref32Mask_eq_iff]
  constructor
  · rintro ⟨hres, ⟨r, hr, rfl, hcode, hmode⟩, a, ha, haddr⟩
    obtain ⟨hr, htakes⟩ := mem_ref32_cmds.mp hr
    have haddr : a.code = fieldOf f 24 3 := haddr
    refine ⟨⟨hcode.symm.trans hr, hres, fun hc => hmode ?_⟩, haddr ▸ (mem_ref32_chans.mp ha).2⟩
    rwa [← htakes, Bool.not_eq_true] at hc
  · rintro ⟨⟨hcode, hres, hmode⟩, haddr⟩
    obtain ⟨ch, hch⟩ := exists_channelCode (fieldOf_lt f 24 3)
    refine ⟨hres, ⟨⟨c, commandCode c, decide (c = .spanMode ∨ c = .powerMode)⟩, mem_ref32_cmds.mpr ?_, rfl, hcode.symm,
      fun hc => hmode ?_⟩, ⟨ch, channelCode ch⟩, mem_ref32_chans.mpr ⟨rfl, hch ▸ haddr⟩, hch⟩
    · simp
    · simpa using hc

/-! ### REF24 -/

theorem ref24_wf : ref24.wf = true := wf_of_table? (tag := 1) resetParams_wf rfl

/-- REF24 has the three commands that take no mode bits, with their codes of R86 (R78). -/
theorem mem_ref24_cmds {r : CmdRow} : r ∈ ref24.cmds ↔
    r.code = commandCode r.cmd ∧ r.code ≤ 2 ∧ r.takesMode = false := by
  obtain ⟨c, k, t⟩ := r
  cases c <;> simp [ref24, ref24With, commandCode] <;> omega

/-- REF24 gives the channels A to C their codes of R86 (R78). -/
theorem mem_ref24_chans {a : ChanRow} : a ∈ ref24.chans ↔ a.code = channelCode a.chan ∧ a.code ≤ 2 := by
  obtain ⟨c, k⟩ := a
  cases c <;> simp [ref24, ref24With, channelCode] <;> omega

/-- The reserved bits of REF24 are 17, 16 and 3 to 0 (R78). -/
theorem isReserved_ref24 (i : Nat) : ref24.isReserved i = (inField 16 2 i || inField 0 4 i) := by
  rw [Bool.eq_iff_iff, isReserved_eq_true, Bool.or_eq_true, inField_eq_true, inField_eq_true]
  simp only [Bool.eq_false_iff, ne_eq, inField_eq_true]
  simp only [ref24, ref24With]
  omega

theorem reservedClear_ref24 {f : Nat} : ref24.reservedClear f = true ↔ fieldOf f 16 2 = 0 ∧ fieldOf f 0 4 = 0 := by
  simp only [reservedClear_eq_true, isReserved_ref24, fieldOf_eq_zero_iff, Bool.or_eq_true, or_imp, forall_and]

/-- The mask and the matches of R79 read the command field and the reserved bits. -/
theorem ref24Match?_eq_iff {f : Nat} {c : Command} : ref24Match? c = some (f &&& 0x73000F) ↔
    commandCode c ≤ 2 ∧ fieldOf f 20 3 = commandCode c ∧ fieldOf f 16 2 = 0 ∧ fieldOf f 0 4 = 0 := by
  have hmask : 0x73000F = (2 ^ 3 - 1) <<< 20 ||| ((2 ^ 2 - 1) <<< 16 ||| (2 ^ 4 - 1) <<< 0) := rfl
  have hcode : ref24Match? c = if commandCode c ≤ 2 then some (commandCode c <<< 20) else none := by cases c <;> rfl
  have hfields : commandCode c <<< 20 = f &&& 0x73000F ↔
      fieldOf f 20 3 = commandCode c ∧ fieldOf f 16 2 = 0 ∧ fieldOf f 0 4 = 0 := by
    rw [eq_comm, hmask, and_mask_eq_shiftLeft_iff (by decide), and_or_eq_zero_iff, and_fieldMask_eq_zero_iff,
      and_fieldMask_eq_zero_iff]
  by_cases hc : commandCode c ≤ 2 <;> simp [hcode, hc, hfields]

theorem ref24_accepts_iff {f : Nat} {c : Command} : (∃ w, decodeValue ref24 f = .ok w ∧ w.command = c) ↔
    ref24Match? c = some (f &&& 0x73000F) ∧ fieldOf f 18 2 ≤ 2 := by
  have hnomode : fieldOf f ref24.modeLo ref24.modeW = 0 := Nat.mod_one _
  rw [exists_decodeValue_command_iff ref24_wf, reservedClear_ref24, ref24Match?_eq_iff]
  constructor
  · rintro ⟨hres, ⟨r, hr, rfl, hcode, -⟩, a, ha, haddr⟩
    obtain ⟨hr, hle, -⟩ := mem_ref24_cmds.mp hr
    have haddr : a.code = fieldOf f 18 2 := haddr
    exact ⟨⟨hr ▸ hle, hcode.symm.trans hr, hres⟩, haddr ▸ (mem_ref24_chans.mp ha).2⟩
  · rintro ⟨⟨hle, hcode, hres⟩, haddr⟩
    obtain ⟨ch, hch⟩ := exists_channelCode ((fieldOf_lt f 18 2).trans (by decide))
    exact ⟨hres, ⟨⟨c, commandCode c, false⟩, mem_ref24_cmds.mpr ⟨rfl, hle, rfl⟩, rfl, hcode.symm, fun _ => hnomode⟩,
      ⟨ch, channelCode ch⟩, mem_ref24_chans.mpr ⟨rfl, hch ▸ haddr⟩, hch⟩

theorem decodeDir_eq_read_iff {T : FamilyTable} (h : T.dirWrite = false) {bit : Bool} :
    decodeDir T bit = .read ↔ bit = true := by
  cases bit <;> simp [decodeDir, h]

end Sys2Proof.Machine

open Sys2Proof Sys2Proof.Machine in
/-- Settles O8: an accepted frame by its fields, the mask as fields, and the rows of REF32 by the codes of R86. -/
theorem ref32OpcodeMap : Obligations.Ref32OpcodeMap := by
  intro f hf
  have hdec : decodeWord ref32 (frameBytes 32 f) = decodeValue ref32 f := decodeWord_frameBytes ref32_wf hf
  simp only [hdec, ← fieldOf_eq]
  refine ⟨fun c => ref32_accepts_iff, fun w hw => ?_⟩
  obtain ⟨r, a, h⟩ := decodeValue_eq_ok_iff.mp hw
  obtain ⟨hr, -⟩ := (cmdOfCode?_eq_some_iff ref32_wf).mp h.cmdCode
  obtain ⟨ha, haddr⟩ := (chanOfCode?_eq_some_iff ref32_wf).mp h.chanCode
  have htakes := (mem_ref32_cmds.mp hr).2
  have hbits := h.modeBits
  rw [← h.command] at htakes
  refine ⟨?_, ?_, ?_, fun hc => ?_, fun hspan hpower => ?_⟩
  · have hlow : fieldOf f 0 16 = f % 2 ^ 16 := by rw [fieldOf, Nat.shiftRight_zero]
    exact h.data.trans hlow
  · rw [h.direction]
    exact decodeDir_eq_read_iff rfl
  · rw [h.channel, ← (mem_ref32_chans.mp ha).1]
    exact haddr
  · rw [htakes.mpr hc] at hbits
    exact decodeMode_true.mp hbits
  · have hno : r.takesMode = false := by simp [← Bool.not_eq_true, htakes, hspan, hpower]
    rw [hno] at hbits
    exact (decodeMode_false.mp hbits).2

open Sys2Proof Sys2Proof.Machine in
/-- Settles O9: an accepted frame by its fields, the mask as fields, and the rows of REF24 by the codes of R86. -/
theorem ref24OpcodeMap : Obligations.Ref24OpcodeMap := by
  intro f hf
  have hdec : decodeWord ref24 (frameBytes 24 f) = decodeValue ref24 f := decodeWord_frameBytes ref24_wf hf
  simp only [hdec, ← fieldOf_eq]
  refine ⟨fun c => ref24_accepts_iff, fun w hw => ?_⟩
  obtain ⟨r, a, h⟩ := decodeValue_eq_ok_iff.mp hw
  obtain ⟨hr, -⟩ := (cmdOfCode?_eq_some_iff ref24_wf).mp h.cmdCode
  obtain ⟨ha, haddr⟩ := (chanOfCode?_eq_some_iff ref24_wf).mp h.chanCode
  obtain ⟨-, -, hno⟩ := mem_ref24_cmds.mp hr
  have hbits := h.modeBits
  rw [hno] at hbits
  refine ⟨h.data, ?_, ?_, (decodeMode_false.mp hbits).2⟩
  · rw [h.direction]
    exact decodeDir_eq_read_iff rfl
  · rw [h.channel, ← (mem_ref24_chans.mp ha).1]
    exact haddr
end

section
/-! PROOF. What a presentation becomes (R85): the decoder's answers and the step that takes it. -/

namespace Sys2Proof.Machine

theorem numAt_zero (x : Byte) (xs : List Byte) : numAt (x :: xs) 0 = x.toNat := rfl

/-- A code that R85 gives to no operation decodes to none. -/
theorem decodeHost_unassigned {b : List Byte} (h : numAt b 0 ∉ [1, 2, 3, 4]) : decodeHost b = .unassigned := by
  unfold decodeHost
  split <;> simp_all

/-- What `decodeTableWord` reads is what the decoder makes of the word presented. -/
theorem decodeTableWord_eq_some_iff {nbits w : Nat} {i : Instr} :
    decodeTableWord nbits w = some i ↔ decode (tableWord nbits w) = .instr i := by
  unfold decodeTableWord
  cases decode (tableWord nbits w) <;> simp

theorem step_instr {s : State} {w : PortWord} {rest : List Input} {i : Instr} (h : s.inbox = .port w :: rest)
    (hw : decode w = .instr i) : step s = exec i { s with inbox := rest } := by
  rw [step_port h, present, hw]

theorem step_unassigned {s : State} {w : PortWord} {rest : List Input} (h : s.inbox = .port w :: rest)
    (hw : decode w = .unassigned) : step s = .next (unassignedOp { s with inbox := rest }) := by
  rw [step_port h, present, hw]

end Sys2Proof.Machine

/-- Settles O13: the words are closed, and the decoder is run on each. -/
theorem tableWordsDecode : Obligations.TableWordsDecode := by
  unfold Obligations.TableWordsDecode
  decide +kernel

open Sys2Proof Sys2Proof.Machine in
/-- Settles O14: the code decodes to no operation, and the step only answers. -/
theorem unassignedCodeOnlyAnswers : Obligations.UnassignedCodeOnlyAnswers := by
  intro s code operands rest hcode hbox
  exact step_unassigned hbox (decodeHost_unassigned (by rwa [numAt_zero]))

open Sys2Proof Sys2Proof.Machine in
/-- Settles O15: the step at a presentation, and the word that `withFetchWord` puts before the inputs. -/
theorem stepRunsTheDecodedInstruction : Obligations.StepRunsTheDecodedInstruction :=
  ⟨fun _ _ _ _ hbox hw => step_instr hbox hw,
    fun s _ _ _ hw => step_instr (s := s.withFetchWord _ _) rfl (decodeTableWord_eq_some_iff.mp hw)⟩
end

section
/-! PROOF. The round trips of the codec (R102 to R105, R112): ENCODE and DECODE take each other's answers back. -/

namespace Sys2Proof

/-- The direction bit ENCODE writes is read as its direction (R72, R104). -/
theorem decodeDir_of_toNat_eq_dirBit {T : FamilyTable} {d : Direction} {bit : Bool} (h : bit.toNat = dirBit T d) :
    decodeDir T bit = d := by
  cases d <;> cases bit <;> cases hw : T.dirWrite <;> simp_all [decodeDir, dirBit]

/-- DECODE hands back the mode bits ENCODE accepts (R101, R104). -/
theorem decodeMode_modeValue {T : FamilyTable} {takesMode : Bool} {m : Option Nat}
    (h : modeAccepted T takesMode m = true) : decodeMode takesMode (modeValue m) = some m := by
  cases takesMode with
  | false =>
    cases m with
    | none => rfl
    | some v => simp [modeAccepted] at h
  | true =>
    cases m with
    | none => simp [modeAccepted] at h
    | some v => rfl

/-- A word is representable exactly where ENCODE answers a frame value for it (R101). -/
theorem representable_iff_encodeValue {T : FamilyTable} {w : RegisterWord} :
    representable T w = true ↔ ∃ f, encodeValue T w = .ok f := by
  constructor
  · intro h
    obtain ⟨f, hf⟩ := Laws.EncodedLength.frameValue_of_representable h
    exact ⟨f, by simp [encodeValue, h, hf]⟩
  · rintro ⟨f, hf⟩
    exact (Machine.encodeValue_ok hf).1

theorem decodeWord_eq_ok_iff {T : FamilyTable} {b : List Byte} {w : RegisterWord} :
    decodeWord T b = .ok w ↔ b.length = T.L ∧ ∃ r a, DecodesTo T (frameOfBytes b) r a w := by
  rw [← decodeValue_eq_ok_iff]
  by_cases hlen : b.length = T.L <;> simp [decodeWord, hlen]

theorem encodeWord_length {T : FamilyTable} {w : RegisterWord} {b : List Byte} (h : encodeWord T w = .ok b) :
    b.length = T.L := by
  obtain ⟨f, -, rfl⟩ := encodeWord_eq_ok_iff.mp h
  exact Machine.frameBytes_length T.W f

section

variable {T : FamilyTable} (hT : T.wf = true)
include hT

/-- What ENCODE puts into a frame, DECODE finds there (R103). -/
theorem EncodesTo.decodesTo {f : Nat} {r : CmdRow} {a : ChanRow} {w : RegisterWord} (h : EncodesTo T w r a f) :
    DecodesTo T f r a w := by
  have hfit := h.fieldsFit hT
  obtain ⟨hdir, hcmd, hchan, hdata, hmode⟩ := hfit.fieldOf_assemble (tableRules_of_wf hT).disjoint
  obtain ⟨hr, hcommand⟩ := (cmdRow?_eq_some_iff hT).mp h.cmd
  obtain ⟨ha, hchannel⟩ := (chanRow?_eq_some_iff hT).mp h.chan
  rw [← h.value] at hdir hcmd hchan hdata hmode
  exact {
    reserved  := reservedClear_eq_true.mpr fun i hi => h.value ▸ hfit.reserved_clear hi
    cmdCode   := (cmdOfCode?_eq_some_iff hT).mpr ⟨hr, hcmd.symm⟩
    chanCode  := (chanOfCode?_eq_some_iff hT).mpr ⟨ha, hchan.symm⟩
    direction := (decodeDir_of_toNat_eq_dirBit ((fieldOf_one f T.dirPos).symm.trans hdir)).symm
    command   := hcommand.symm
    channel   := hchannel.symm
    data      := hdata.symm
    modeBits  := by rw [hmode, decodeMode_modeValue h.mode] }

/-- DECODE undoes ENCODE (R103). -/
theorem decodeWord_of_encodeWord {w : RegisterWord} {b : List Byte} (h : encodeWord T w = .ok b) :
    decodeWord T b = .ok w := by
  obtain ⟨r, a, henc⟩ := encodesTo_of_encodeWord hT h
  exact decodeWord_eq_ok_iff.mpr ⟨encodeWord_length h, r, a, henc.decodesTo hT⟩

/-- ENCODE undoes DECODE (R112). -/
theorem encodeWord_of_decodeWord {w : RegisterWord} {b : List Byte} (h : decodeWord T b = .ok w) :
    encodeWord T w = .ok b := by
  obtain ⟨hlen, r, a, hdec⟩ := decodeWord_eq_ok_iff.mp h
  exact hdec.encodeWord_eq hT hlen

end

end Sys2Proof

open Sys2Proof in
/-- Settles O4: the frame ENCODE answers holds the word's fields, and DECODE reads each of them back. -/
theorem decodeUndoesEncode : Obligations.DecodeUndoesEncode := by
  intro T w hT hrep
  obtain ⟨f, hf⟩ := representable_iff_encodeValue.mp hrep
  have henc : encodeWord T w = .ok (frameBytes T.W f) := encodeWord_eq_ok_iff.mpr ⟨f, hf, rfl⟩
  exact ⟨_, henc, decodeWord_of_encodeWord hT henc⟩

open Sys2Proof in
/-- Settles O5: a frame without reserved bits is its fields put together, and its bytes are those of its value. -/
theorem encodeUndoesDecode : Obligations.EncodeUndoesDecode := by
  intro T w b hT hdec
  have henc := encodeWord_of_decodeWord hT hdec
  obtain ⟨f, hf, -⟩ := encodeWord_eq_ok_iff.mp henc
  exact ⟨representable_iff_encodeValue.mpr ⟨f, hf⟩, henc⟩

open Sys2Proof in
/-- Settles O3: DECODE gives one word back from the frame. -/
theorem encodeIsInjective : Obligations.EncodeIsInjective := fun _ _ _ _ hT hv hw =>
  ⟨encodeWord_length hv,
    Except.ok.inj ((decodeWord_of_encodeWord hT hv).symm.trans (decodeWord_of_encodeWord hT hw))⟩

open Sys2Proof in
/-- Settles O6: the length is checked before the frame is read. -/
theorem decodeChecksTheLength : Obligations.DecodeChecksTheLength := fun _ _ hlen => if_neg hlen
end

section
/-! PROOF. Every instruction read back from what is presented for it: a frame through the round trip of its word (R103),
a host operation operand by operand (R85; assumption 2). -/

namespace Sys2Proof

/-! ### Frames -/

theorem refTable_wf (fam : RefFamily) : fam.table.wf = true := by
  cases fam
  · exact Machine.ref32_wf
  · exact Machine.ref24_wf

/-- What `encodeFrame` presents for a representable word is what ENCODE answers (R101). -/
theorem encodeFrame_of_representable {fam : RefFamily} {w : RegisterWord} (h : representable fam.table w = true) :
    ∃ b, encodeFrame fam w = .frame fam b ∧ encodeWord fam.table w = .ok b := by
  obtain ⟨f, hf⟩ := representable_iff_encodeValue.mp h
  obtain ⟨-, hvalue⟩ := Machine.encodeValue_ok hf
  exact ⟨_, by rw [encodeFrame, hvalue], encodeWord_eq_ok_iff.mpr ⟨f, hf, rfl⟩⟩

/-- A frame command is read back from the frame of its word (R77, R79, R103). -/
theorem decode_encodeFrame {fam : RefFamily} {w : RegisterWord} {i : Instr} (h : representable fam.table w = true)
    (hi : frameInstr? fam w = some i) : decode (encodeFrame fam w) = .instr i := by
  obtain ⟨b, hb, henc⟩ := encodeFrame_of_representable h
  simp only [hb, decode, decodeFrame, decodeWord_of_encodeWord (refTable_wf fam) henc, hi]

/-! ### Host operations -/

theorem StandsAt.pinsAt_eq {b : List Byte} {k : Nat} {p : Pins} (h : StandsAt b k (putPins p))
    (hp : p.portWf = true) : pinsAt b k = p := by
  simp only [Pins.portWf, Bool.and_eq_true] at hp
  obtain ⟨⟨⟨⟨⟨hclk, hdout⟩, hdin⟩, hsync⟩, hlatch⟩, hreset⟩ := hp
  have toLatch := h.left
  have toSync := toLatch.left
  have toDin := toSync.left
  have toDout := toDin.left
  have len := Laws.EncodedLength.putOpt32_length
  rw [pinsAt, toDout.left.opt32At_eq hclk,
    (toDout.right (n := 5) (len _)).opt32At_eq hdout,
    (toDin.right (n := 10) (by simp [len])).opt32At_eq hdin,
    (toSync.right (n := 15) (by simp [len])).opt32At_eq hsync,
    (toLatch.right (n := 20) (by simp [len])).opt32At_eq hlatch,
    (h.right (n := 25) (by simp [len])).opt32At_eq hreset]

/-- A `RegisterWord` operand after an operation's code is read back (R85, R86). -/
theorem regWordAt_one {code : Nat} {w : RegisterWord} (h : w.portWf = true) :
    regWordAt (leBytes 1 code ++ putRegWord w) 1 = w := by
  have hall := standsAt_zero (leBytes 1 code ++ putRegWord w) []
  rw [List.append_nil] at hall
  exact (hall.right (n := 1) rfl).regWordAt_eq h

theorem decode_encode_hostWrite {w : RegisterWord} (h : w.portWf = true) :
    decode (encode (.hostWrite w)) = .instr (.hostWrite w) :=
  congrArg (fun v => Decoded.instr (.hostWrite v)) (regWordAt_one h)

theorem decode_encode_hostRead {w : RegisterWord} (h : w.portWf = true) :
    decode (encode (.hostRead w)) = .instr (.hostRead w) :=
  congrArg (fun v => Decoded.instr (.hostRead v)) (regWordAt_one h)

/-- The host port carries OPEN, its depth less one (R85, R180). -/
theorem decode_encode_hostOpen {h : Nat} {c : OpenCfg} (hwf : (Instr.hostOpen h c).wf = true) :
    decode (encode (.hostOpen h c)) = .instr (.hostOpen h c) := by
  simp only [Instr.wf, OpenCfg.portWf, Bool.and_eq_true, decide_eq_true_eq] at hwf
  obtain ⟨hhandle, ⟨⟨⟨hfreq, hpos⟩, hmax⟩, hfam⟩, hpins⟩ := hwf
  have hdepth : fits32 (c.pipelineDepth - 1) = true := decide_eq_true (by omega)
  have hall := standsAt_zero (leBytes 1 1 ++ leBytes 4 h ++ leBytes 4 c.clockFreq ++ leBytes 4 (c.pipelineDepth - 1) ++
    leBytes 1 c.deviceFamily ++ putPins c.pins) []
  rw [List.append_nil] at hall
  have toFam := hall.left
  have toDepth := toFam.left
  have toFreq := toDepth.left
  have toHandle := toFreq.left
  have code := toHandle.left.numAt_eq (by decide)
  have handle := (toHandle.right (n := 1) rfl).word32At_eq hhandle
  have freq := (toFreq.right (n := 5) rfl).word32At_eq hfreq
  have depth := (toDepth.right (n := 9) rfl).word32At_eq hdepth
  have fam := (toFam.right (n := 13) rfl).numAt_eq hfam
  have pins := (hall.right (n := 14) rfl).pinsAt_eq hpins
  simp only [Nat.zero_add] at handle freq depth fam pins
  simp only [encode, decode, decodeHost, code, openOf, handle, freq, depth, fam, pins, Nat.sub_add_cancel hpos]

end Sys2Proof

open Sys2Proof in
/-- Settles O12, by cases on the instruction: a frame command by the round trip of its word, a host operation by its
operands. -/
theorem decodeGivesEveryInstructionBack : Obligations.DecodeGivesEveryInstructionBack := by
  intro i h
  cases i with
  | hostOpen handle cfg => exact decode_encode_hostOpen h
  | hostWrite w => exact decode_encode_hostWrite h
  | hostWriteBatch ws l => exact decode_encode_hostWriteBatch h
  | hostRead w => exact decode_encode_hostRead h
  | _ => exact decode_encodeFrame h rfl
end

section
/-! PROOF. ENCODE by the table (R72, R101): the frame as the sum of its fields at their places, and the words it accepts
by the rows of the table. -/

namespace Sys2Proof

/-! ### The frame as a sum -/

/-- Values that share no bit are added by putting their bits together. -/
theorem or_eq_add_of_and_eq_zero {a b : Nat} (h : a &&& b = 0) : a ||| b = a + b := by
  have hsum : a + b < 2 ^ (a + b) := Nat.lt_two_pow_self
  have ha : a < 2 ^ (a + b) := by omega
  have hb : b < 2 ^ (a + b) := by omega
  have hadd := BitVec.add_eq_or_of_and_eq_zero (BitVec.ofNatLT a ha) (BitVec.ofNatLT b hb)
    (BitVec.eq_of_toNat_eq (by simpa using h))
  simpa [Nat.mod_eq_of_lt hsum] using (congrArg BitVec.toNat hadd).symm

/-- A value put into a field that is still 0 is added at the field's place (R7). -/
theorem or_shiftLeft_eq_add {f lo w v : Nat} (hv : v < 2 ^ w) (hf : fieldOf f lo w = 0) :
    f ||| v <<< lo = f + v * 2 ^ lo := by
  rw [← Nat.shiftLeft_eq]
  refine or_eq_add_of_and_eq_zero (Nat.zero_of_testBit_eq_false fun i => ?_)
  rw [Nat.testBit_and]
  cases hi : inField lo w i with
  | false => rw [testBit_shiftLeft_of_not_inField hv hi, Bool.and_false]
  | true => rw [fieldOf_eq_zero_iff.mp hf i hi, Bool.false_and]

/-- The five fields of a word added at their places (R72). -/
def fieldSum (T : FamilyTable) (dir cmd chan data mode : Nat) : Nat :=
  dir * 2 ^ T.dirPos + cmd * 2 ^ T.cmdLo + chan * 2 ^ T.addrLo + data * 2 ^ T.dataLo + mode * 2 ^ T.modeLo

/-- Fields that share no bit are added by putting them together (R71 (b), R72). -/
theorem FieldsFit.assemble_eq_fieldSum {T : FamilyTable} {dir cmd chan data mode : Nat}
    (h : FieldsFit T dir cmd chan data mode) (hT : T.fieldsDisjoint = true) :
    assemble T dir cmd chan data mode = fieldSum T dir cmd chan data mode := by
  simp only [FamilyTable.fieldsDisjoint, Bool.and_eq_true] at hT
  obtain ⟨hdir, hcmd, hchan, hdata, hmode⟩ := h
  rw [assemble, or_shiftLeft_eq_add hmode, or_shiftLeft_eq_add hdata, or_shiftLeft_eq_add hchan,
    or_shiftLeft_eq_add hcmd, Nat.shiftLeft_eq, fieldSum]
  all_goals
    simp (disch := simp only [*, true_or]) only [fieldOf_or, fieldOf_shiftLeft_of_disjoint hdir,
      fieldOf_shiftLeft_of_disjoint hcmd, fieldOf_shiftLeft_of_disjoint hchan, fieldOf_shiftLeft_of_disjoint hdata,
      Nat.or_zero]

/-! ### The words ENCODE accepts -/

/-- R101's clauses (a) to (e), with the rows of the table that they speak of. -/
structure Accepts (T : FamilyTable) (w : RegisterWord) (a : ChanRow) (r : CmdRow) : Prop where
  chanRow  : a ∈ T.chans
  chan     : a.chan = w.channel
  cmdRow   : r ∈ T.cmds
  cmd      : r.cmd = w.command
  data     : w.data < 2 ^ T.dataW
  noMode   : r.takesMode = false → w.modeBits = none
  someMode : r.takesMode = true → ∃ v, w.modeBits = some v ∧ v < 2 ^ T.modeW

theorem modeAccepted_iff {T : FamilyTable} {takesMode : Bool} {m : Option Nat} : modeAccepted T takesMode m = true ↔
    (takesMode = false → m = none) ∧ (takesMode = true → ∃ v, m = some v ∧ v < 2 ^ T.modeW) := by
  cases takesMode <;> cases m <;> simp [modeAccepted]

/-- ENCODE refuses with `UnsupportedField` alone, and only words that are not representable (R101). -/
theorem encodeWord_of_not_representable {T : FamilyTable} {w : RegisterWord} (h : representable T w = false) :
    encodeWord T w = .error .unsupportedField := by
  simp [encodeWord, encodeValue, h]

section

variable {T : FamilyTable} (hT : T.wf = true)
include hT

/-- ENCODE puts the fields of an accepted word into the frame, and only those of such a word (R72, R101). -/
theorem encodesTo_iff {w : RegisterWord} {r : CmdRow} {a : ChanRow} {f : Nat} : EncodesTo T w r a f ↔
    Accepts T w a r ∧ f = fieldSum T (dirBit T w.direction) r.code a.code w.data (modeValue w.modeBits) := by
  constructor
  · intro h
    obtain ⟨hr, hcmd⟩ := (cmdRow?_eq_some_iff hT).mp h.cmd
    obtain ⟨ha, hchan⟩ := (chanRow?_eq_some_iff hT).mp h.chan
    obtain ⟨hno, hsome⟩ := modeAccepted_iff.mp h.mode
    exact ⟨⟨ha, hchan, hr, hcmd, h.data, hno, hsome⟩,
      h.value.trans ((h.fieldsFit hT).assemble_eq_fieldSum (tableRules_of_wf hT).disjoint)⟩
  · rintro ⟨⟨ha, hchan, hr, hcmd, hdata, hno, hsome⟩, rfl⟩
    have h : EncodesTo T w r a _ := ⟨(cmdRow?_eq_some_iff hT).mpr ⟨hr, hcmd⟩, (chanRow?_eq_some_iff hT).mpr ⟨ha, hchan⟩,
      hdata, modeAccepted_iff.mpr ⟨hno, hsome⟩, rfl⟩
    rwa [(h.fieldsFit hT).assemble_eq_fieldSum (tableRules_of_wf hT).disjoint] at h

theorem representable_iff_accepts {w : RegisterWord} : representable T w = true ↔ ∃ a r, Accepts T w a r := by
  rw [representable_iff_encodeValue]
  constructor
  · rintro ⟨f, hf⟩
    obtain ⟨r, a, henc⟩ := encodeValue_eq_ok_iff.mp hf
    exact ⟨a, r, ((encodesTo_iff hT).mp henc).1⟩
  · rintro ⟨a, r, h⟩
    exact ⟨_, encodeValue_eq_ok_iff.mpr ⟨r, a, (encodesTo_iff hT).mpr ⟨h, rfl⟩⟩⟩

/-- The frame value of an accepted word (R72, R101). -/
theorem Accepts.encodeValue_eq {w : RegisterWord} {a : ChanRow} {r : CmdRow} (h : Accepts T w a r) :
    encodeValue T w =
      .ok (fieldSum T (dirBit T w.direction) r.code a.code w.data (modeValue w.modeBits)) :=
  encodeValue_eq_ok_iff.mpr ⟨r, a, (encodesTo_iff hT).mpr ⟨h, rfl⟩⟩

/-- A frame value ENCODE answers has no reserved bit set (R80). -/
theorem testBit_of_encodeValue {w : RegisterWord} {f i : Nat} (h : encodeValue T w = .ok f)
    (hi : T.isReserved i = true) : f.testBit i = false := by
  obtain ⟨r, a, henc⟩ := encodeValue_eq_ok_iff.mp h
  exact henc.value ▸ (henc.fieldsFit hT).reserved_clear hi

end

end Sys2Proof

open Sys2Proof in
/-- Settles O1: an accepted word's frame is the sum of its fields, and a word that no rows accept is not
representable. -/
theorem encodeFollowsTheTable : Obligations.EncodeFollowsTheTable := by
  intro T w hT
  refine ⟨fun a r ⟨ha, hchan, hr, hcmd, hdata, hno, hsome⟩ => ?_, fun hnone => ?_⟩
  · have hf := Accepts.encodeValue_eq hT ⟨ha, hchan, hr, hcmd, hdata, hno, hsome⟩
    have hdir : (if w.direction = .write then T.dirWrite.toNat else 1 - T.dirWrite.toNat) = dirBit T w.direction := by
      cases w.direction <;> rfl
    have hmode : w.modeBits.getD 0 = modeValue w.modeBits := by cases w.modeBits <;> rfl
    rw [hdir, hmode]
    exact ⟨encodeWord_eq_ok_iff.mpr ⟨_, hf, rfl⟩, Machine.encodeValue_lt hT hf,
      fun i hi => testBit_of_encodeValue hT hf hi⟩
  · refine encodeWord_of_not_representable (Bool.eq_false_iff.mpr fun hrep => ?_)
    obtain ⟨a, r, h⟩ := (representable_iff_accepts hT).mp hrep
    exact hnone a r ⟨h.chanRow, h.chan, h.cmdRow, h.cmd, h.data, h.noMode, h.someMode⟩
end

section
/-! PROOF. The frame commands of the two reference families (R106 to R110): the frame each packs, and the words each
refuses. -/

namespace Sys2Proof.Machine

/-! ### What a frame command evaluates -/

/-- A frame command is ENCODE evaluated on its word, in its family (R100, R106 to R110). -/
theorem exec_of_frameInstr? {fam : RefFamily} {w : RegisterWord} {i : Instr} (h : frameInstr? fam w = some i)
    (s : State) : exec i s = .next (evalEncode fam.table w s) := by
  obtain ⟨d, c, ch, x, m⟩ := w
  cases fam <;> cases c <;> cases h <;> rfl

/-- A frame command shows an accepted word with its frame, and changes nothing else (R72, R101). -/
theorem exec_packs {fam : RefFamily} {w : RegisterWord} {i : Instr} {a : ChanRow} {r : CmdRow}
    (hi : frameInstr? fam w = some i) (h : Accepts fam.table w a r) (s : State) :
    exec i s = .next { s with codecOut := .encoded w (frameBytes fam.table.W
      (fieldSum fam.table (dirBit fam.table w.direction) r.code a.code w.data (modeValue w.modeBits))) } := by
  rw [exec_of_frameInstr? hi, evalEncode, encodeWord_eq_ok_iff.mpr ⟨_, h.encodeValue_eq (refTable_wf fam), rfl⟩]

/-- A frame command answers `UnsupportedField` for a word its family cannot carry, and changes nothing else (R101). -/
theorem exec_refuses {fam : RefFamily} {w : RegisterWord} {i : Instr} (hi : frameInstr? fam w = some i)
    (h : ¬ representable fam.table w = true) (s : State) :
    exec i s = .next { s with codecOut := .error .unsupportedField } := by
  rw [exec_of_frameInstr? hi, evalEncode, encodeWord_of_not_representable (Bool.eq_false_iff.mpr h)]

/-- In a family whose writes have the direction bit 0, the direction bit is the code of R86. -/
theorem dirBit_eq_directionCode {T : FamilyTable} (h : T.dirWrite = false) (d : Direction) :
    dirBit T d = directionCode d := by
  cases d <;> simp [dirBit, directionCode, h]

/-! ### REF32 -/

/-- The commands of REF32 that take mode bits (R76). -/
def ref32TakesMode (c : Command) : Bool := decide (c = .spanMode ∨ c = .powerMode)

theorem mem_ref32_cmds_iff_eq {r : CmdRow} :
    r ∈ ref32.cmds ↔ r = ⟨r.cmd, commandCode r.cmd, ref32TakesMode r.cmd⟩ := by
  obtain ⟨c, k, t⟩ := r
  have htakes : t = ref32TakesMode c ↔ (t = true ↔ c = .spanMode ∨ c = .powerMode) := by
    rw [Bool.eq_iff_iff, ref32TakesMode, decide_eq_true_eq]
  rw [mem_ref32_cmds, CmdRow.mk.injEq, htakes]
  simp only [true_and]

theorem mem_ref32_chans_iff_pair {a : ChanRow} :
    a ∈ ref32.chans ↔ (a.chan, a.code) ∈ [(Channel.A, 0), (.B, 1), (.C, 2), (.D, 3)] := by
  obtain ⟨c, k⟩ := a
  simp [ref32, ref32With]

/-- REF32 accepts every command, the channels A to D, 16 data bits, and four mode bits where the command takes them
(R76, R101). -/
theorem accepts_ref32_iff {w : RegisterWord} {a : ChanRow} {r : CmdRow} : Accepts ref32 w a r ↔
    (w.channel, a.code) ∈ [(Channel.A, 0), (.B, 1), (.C, 2), (.D, 3)] ∧ w.data < 2 ^ 16 ∧
      modeAccepted ref32 (ref32TakesMode w.command) w.modeBits = true ∧ a.chan = w.channel ∧
      r = ⟨w.command, commandCode w.command, ref32TakesMode w.command⟩ := by
  constructor
  · intro h
    have hr := mem_ref32_cmds_iff_eq.mp h.cmdRow
    rw [h.cmd] at hr
    have hmode := modeAccepted_iff.mpr ⟨h.noMode, h.someMode⟩
    rw [hr] at hmode
    exact ⟨h.chan ▸ mem_ref32_chans_iff_pair.mp h.chanRow, h.data, hmode, h.chan, hr⟩
  · rintro ⟨hchan, hdata, hmode, ha, rfl⟩
    obtain ⟨hno, hsome⟩ := modeAccepted_iff.mp hmode
    exact ⟨mem_ref32_chans_iff_pair.mpr (ha ▸ hchan), ha, mem_ref32_cmds_iff_eq.mpr rfl, rfl, hdata, hno, hsome⟩

/-- A REF32 command packs direction, code, channel, mode bits and data (R77). -/
theorem exec_ref32_packs (cmd : Command) {d : Direction} {c : Channel} {a x : Nat} {m : Option Nat} {i : Instr}
    (hi : frameInstr? .ref32 ⟨d, cmd, c, x, m⟩ = some i) (hc : (c, a) ∈ [(Channel.A, 0), (.B, 1), (.C, 2), (.D, 3)])
    (hx : x < 2 ^ 16) (hm : modeAccepted ref32 (ref32TakesMode cmd) m = true) (s : State) :
    exec i s = .next { s with codecOut := .encoded ⟨d, cmd, c, x, m⟩ (frameBytes 32
      (directionCode d * 2 ^ 31 + commandCode cmd * 2 ^ 27 + a * 2 ^ 24 + modeValue m * 2 ^ 16 + x)) } := by
  have h : Accepts ref32 ⟨d, cmd, c, x, m⟩ ⟨c, a⟩ ⟨cmd, commandCode cmd, ref32TakesMode cmd⟩ :=
    accepts_ref32_iff.mpr ⟨hc, hx, hm, rfl, rfl⟩
  have hsum : fieldSum ref32 (dirBit ref32 d) (commandCode cmd) a x (modeValue m) =
      directionCode d * 2 ^ 31 + commandCode cmd * 2 ^ 27 + a * 2 ^ 24 + modeValue m * 2 ^ 16 + x := by
    rw [dirBit_eq_directionCode rfl]
    simp only [fieldSum, ref32, ref32With]
    omega
  rw [← hsum]
  exact exec_packs hi h s

/-- A REF32 command refuses every word outside R101's clauses. -/
theorem exec_ref32_refuses (cmd : Command) {d : Direction} {c : Channel} {x : Nat} {m : Option Nat} {i : Instr}
    (hi : frameInstr? .ref32 ⟨d, cmd, c, x, m⟩ = some i)
    (h : ¬ (c ∈ [Channel.A, .B, .C, .D] ∧ x < 2 ^ 16 ∧ modeAccepted ref32 (ref32TakesMode cmd) m = true)) (s : State) :
    exec i s = .next { s with codecOut := .error .unsupportedField } := by
  refine exec_refuses hi (fun hrep => h ?_) s
  obtain ⟨a, r, hacc⟩ := (representable_iff_accepts ref32_wf).mp hrep
  obtain ⟨hchan, hdata, hmode, -⟩ := accepts_ref32_iff.mp hacc
  exact ⟨List.mem_map_of_mem (f := Prod.fst) hchan, hdata, hmode⟩

/-! ### REF24 -/

theorem mem_ref24_cmds_iff_eq {r : CmdRow} :
    r ∈ ref24.cmds ↔ commandCode r.cmd ≤ 2 ∧ r = ⟨r.cmd, commandCode r.cmd, false⟩ := by
  obtain ⟨c, k, t⟩ := r
  rw [mem_ref24_cmds, CmdRow.mk.injEq]
  dsimp only
  constructor
  · rintro ⟨rfl, hle, rfl⟩
    exact ⟨hle, rfl, rfl, rfl⟩
  · rintro ⟨hle, -, rfl, rfl⟩
    exact ⟨rfl, hle, rfl⟩

theorem mem_ref24_chans_iff_pair {a : ChanRow} :
    a ∈ ref24.chans ↔ (a.chan, a.code) ∈ [(Channel.A, 0), (.B, 1), (.C, 2)] := by
  obtain ⟨c, k⟩ := a
  simp [ref24, ref24With]

/-- REF24 accepts three commands, the channels A to C, 12 data bits, and no mode bits (R78, R101). -/
theorem accepts_ref24_iff {w : RegisterWord} {a : ChanRow} {r : CmdRow} : Accepts ref24 w a r ↔
    (w.channel, a.code) ∈ [(Channel.A, 0), (.B, 1), (.C, 2)] ∧ w.data < 2 ^ 12 ∧ w.modeBits = none ∧
      a.chan = w.channel ∧ commandCode w.command ≤ 2 ∧ r = ⟨w.command, commandCode w.command, false⟩ := by
  constructor
  · intro h
    obtain ⟨hle, hr⟩ := mem_ref24_cmds_iff_eq.mp h.cmdRow
    rw [h.cmd] at hle hr
    exact ⟨h.chan ▸ mem_ref24_chans_iff_pair.mp h.chanRow, h.data, h.noMode (hr ▸ rfl), h.chan, hle, hr⟩
  · rintro ⟨hchan, hdata, hmode, ha, hle, rfl⟩
    exact ⟨mem_ref24_chans_iff_pair.mpr (ha ▸ hchan), ha, mem_ref24_cmds_iff_eq.mpr ⟨hle, rfl⟩, rfl, hdata,
      fun _ => hmode, nofun⟩

/-- A REF24 command packs direction, code, channel and data (R79). -/
theorem exec_ref24_packs (cmd : Command) {d : Direction} {c : Channel} {a x : Nat} {i : Instr}
    (hi : frameInstr? .ref24 ⟨d, cmd, c, x, none⟩ = some i) (hc : (c, a) ∈ [(Channel.A, 0), (.B, 1), (.C, 2)])
    (hx : x < 2 ^ 12) (hcmd : commandCode cmd ≤ 2) (s : State) :
    exec i s = .next { s with codecOut := .encoded ⟨d, cmd, c, x, none⟩ (frameBytes 24
      (directionCode d * 2 ^ 23 + commandCode cmd * 2 ^ 20 + a * 2 ^ 18 + x * 2 ^ 4)) } := by
  have h : Accepts ref24 ⟨d, cmd, c, x, none⟩ ⟨c, a⟩ ⟨cmd, commandCode cmd, false⟩ :=
    accepts_ref24_iff.mpr ⟨hc, hx, rfl, rfl, hcmd, rfl⟩
  have hsum : fieldSum ref24 (dirBit ref24 d) (commandCode cmd) a x (modeValue none) =
      directionCode d * 2 ^ 23 + commandCode cmd * 2 ^ 20 + a * 2 ^ 18 + x * 2 ^ 4 := by
    rw [dirBit_eq_directionCode rfl]
    simp only [fieldSum, ref24, ref24With, modeValue]
    omega
  rw [← hsum]
  exact exec_packs hi h s

/-- A REF24 command refuses every word outside R101's clauses. -/
theorem exec_ref24_refuses (cmd : Command) {d : Direction} {c : Channel} {x : Nat} {m : Option Nat} {i : Instr}
    (hi : frameInstr? .ref24 ⟨d, cmd, c, x, m⟩ = some i)
    (h : ¬ (c ∈ [Channel.A, .B, .C] ∧ x < 2 ^ 12 ∧ m = none)) (s : State) :
    exec i s = .next { s with codecOut := .error .unsupportedField } := by
  refine exec_refuses hi (fun hrep => h ?_) s
  obtain ⟨a, r, hacc⟩ := (representable_iff_accepts ref24_wf).mp hrep
  obtain ⟨hchan, hdata, hmode, -⟩ := accepts_ref24_iff.mp hacc
  exact ⟨List.mem_map_of_mem (f := Prod.fst) hchan, hdata, hmode⟩

end Sys2Proof.Machine

open Sys2Proof Sys2Proof.Machine in
/-- Settles O16: a REF32 command's frame, the mode field being 0 without mode bits. -/
theorem ref32PlainCommandsPack : Obligations.Ref32PlainCommandsPack := by
  intro s d c a x hc hx
  have hpack (cmd : Command) {i : Instr} (hi : frameInstr? .ref32 ⟨d, cmd, c, x, none⟩ = some i)
      (hcmd : ref32TakesMode cmd = false) : exec i s = .next { s with
        codecOut := .encoded ⟨d, cmd, c, x, none⟩
          (frameBytes 32 (directionCode d * 2 ^ 31 + commandCode cmd * 2 ^ 27 + a * 2 ^ 24 + x)) } := by
    have h := exec_ref32_packs cmd hi hc hx (hcmd ▸ rfl) s
    rwa [modeValue, Nat.zero_mul, Nat.add_zero] at h
  exact ⟨hpack .writeOnly rfl rfl, hpack .writeAndUpdate rfl rfl, hpack .updateOnly rfl rfl⟩

open Sys2Proof Sys2Proof.Machine in
/-- Settles O17: a REF32 command's frame, the mode field holding the mode bits. -/
theorem ref32ModeCommandsPack : Obligations.Ref32ModeCommandsPack := by
  intro s d c a x m hc hx hm
  have haccepted : modeAccepted ref32 true (some m) = true := decide_eq_true hm
  exact ⟨exec_ref32_packs .spanMode rfl hc hx haccepted s, exec_ref32_packs .powerMode rfl hc hx haccepted s⟩

open Sys2Proof Sys2Proof.Machine in
/-- Settles O18: a REF24 command's frame. -/
theorem ref24CommandsPack : Obligations.Ref24CommandsPack := fun s _ _ _ _ hc hx =>
  ⟨exec_ref24_packs .writeOnly rfl hc hx (by decide) s, exec_ref24_packs .writeAndUpdate rfl hc hx (by decide) s,
    exec_ref24_packs .updateOnly rfl hc hx (by decide) s⟩

open Sys2Proof Sys2Proof.Machine in
/-- Settles O19: the words outside each family's clauses, by what the command does with mode bits. -/
theorem frameCommandsRefuseBadWords : Obligations.FrameCommandsRefuseBadWords := by
  intro s d c x m
  have hplain : modeAccepted ref32 false m = true ↔ m = none := by simp [modeAccepted_iff]
  have hmode : modeAccepted ref32 true m = true ↔ ∃ v, m = some v ∧ v < 2 ^ 4 := by
    simp [modeAccepted_iff, ref32, ref32With]
  refine ⟨fun h => ?_, fun h => ?_, fun h => ?_⟩
  · rw [← hplain] at h
    exact ⟨exec_ref32_refuses .writeOnly rfl h s, exec_ref32_refuses .writeAndUpdate rfl h s,
      exec_ref32_refuses .updateOnly rfl h s⟩
  · rw [← hmode] at h
    exact ⟨exec_ref32_refuses .spanMode rfl h s, exec_ref32_refuses .powerMode rfl h s⟩
  · exact ⟨exec_ref24_refuses .writeOnly rfl h s, exec_ref24_refuses .writeAndUpdate rfl h s,
      exec_ref24_refuses .updateOnly rfl h s⟩
end

section
/-! PROOF. While no line call has failed the lines of a session stand at the levels the engine's position says, and
those an OPEN in progress has driven at their idle levels (R129, R183). -/

namespace Sys2Proof.Machine

/-- The level at which an assigned line of a session stands: SYNC low while a Direct operation holds it, and otherwise
the line's idle level (R9, R129). -/
def standingLevel (s : State) (r : CtlLine) : Level :=
  if r = .sync ∧ syncHeldLow s = true then .low else idleLevel s.par r

theorem standingLevel_sync (s : State) : standingLevel s .sync = if syncHeldLow s then .low else .high := by
  simp [standingLevel, idleLevel]

theorem standingLevel_of_ne_sync {s : State} {r : CtlLine} (h : r ≠ .sync) :
    standingLevel s r = idleLevel s.par r := by
  simp [standingLevel, h]

theorem standingLevel_of_not_held {s : State} (h : syncHeldLow s = false) (r : CtlLine) :
    standingLevel s r = idleLevel s.par r := by
  simp [standingLevel, h]

/-- The levels depend on the parameters and on whether SYNC is held. -/
theorem standingLevel_congr {s t : State} (par : t.par = s.par) (held : syncHeldLow t = syncHeldLow s) (r : CtlLine) :
    standingLevel t r = standingLevel s r := by
  simp only [standingLevel, par, held]

/-- What `LineInv` says of a trace without a failed line call, role by role. -/
structure LinesStand (s : State) : Prop where
  session : s.sessionValid = true → ∀ r, (s.cfg.pins.ctl r).isSome = true → getLine r s = .known (standingLevel s r)
  opening : ∀ o, s.opening = some o → ∀ r, o.madeCall r = true → (o.cfg.pins.ctl r).isSome = true →
    getLine r s = .known (idleLevel s.par r)

theorem lineInv_iff {s : State} (h : Inv s) :
    LineInv s ↔ (s.trace.any isLineFailure = false → LinesStand s) := by
  refine imp_congr_right fun _ => ⟨fun ⟨session, opening⟩ => ⟨fun hv r assigned => ?_, opening⟩,
    fun ⟨session, opening⟩ => ⟨fun hv => ?_, opening⟩⟩
  · obtain ⟨sync, latch, reset⟩ := session hv
    cases r with
    | sync => rw [standingLevel_sync]; exact sync
    | latch => exact latch assigned
    | reset => exact reset assigned
  · have sync := session hv .sync (h.sync_assigned hv)
    rw [standingLevel_sync] at sync
    exact ⟨sync, session hv .latch, session hv .reset⟩

/-- A trace without a failed line call had none before. -/
theorem any_isLineFailure_of_append {tr tr' es : List Event} (h : tr' = tr ++ es)
    (ok : tr'.any isLineFailure = false) : tr.any isLineFailure = false := by
  rw [h, List.any_append, Bool.or_eq_false_iff] at ok
  exact ok.1

/-! ### Line calls that do not fail -/

/-- What a line call that has not failed does: it answers so, an assigned line of its role stands at `v`, and the other
roles' registers are as they were (R45, R46). -/
structure Drives (p : Pins) (r : CtlLine) (v : Level) (s : State) (a : Bool × State) : Prop where
  answer : a.1 = true
  line   : (p.ctl r).isSome = true → getLine r a.2 = .known v
  others : ∀ q, q ≠ r → getLine q a.2 = getLine q s

theorem drives_unassigned {p : Pins} {r : CtlLine} (h : p.ctl r = none) (v : Level) (s : State) :
    Drives p r v s (true, s) :=
  ⟨rfl, by simp [h], fun _ _ => rfl⟩

/-- A call of an assigned line, by its event and what it leaves in LINE. -/
theorem drives_assigned {p : Pins} {r : CtlLine} {v : Level} {s : State} {a : Bool × State} {e : Event}
    (h : a.2.trace = s.trace ++ [e] ∧ getLine r a.2 = lineAfter a.1 v ∧ ∀ q, q ≠ r → getLine q a.2 = getLine q s)
    (he : isLineFailure e = !a.1) (ok : a.2.trace.any isLineFailure = false) : Drives p r v s a := by
  obtain ⟨trace, line, others⟩ := h
  have answer : a.1 = true := by
    simp only [trace, List.any_append, Bool.or_eq_false_iff] at ok
    simpa [he] using ok.2
  exact ⟨answer, fun _ => by rw [line, answer]; rfl, others⟩

theorem setLine_drives {p : Pins} {r : CtlLine} {v : Level} {s : State}
    (ok : (setLine p r v s).2.trace.any isLineFailure = false) : Drives p r v s (setLine p r v s) := by
  cases h : p.ctl r with
  | none => rw [setLine_unassigned h]; exact drives_unassigned h v s
  | some l => exact drives_assigned (setLine_assigned (by simp [h]) v s) rfl ok

theorem pulseLine_drives {p : Pins} {r : CtlLine} {d : Nat} {s : State}
    (ok : (pulseLine p r d s).2.trace.any isLineFailure = false) :
    Drives p r (idleLevel s.par r) s (pulseLine p r d s) := by
  cases h : p.ctl r with
  | none => rw [pulseLine_unassigned h]; exact drives_unassigned h _ s
  | some l => exact drives_assigned (pulseLine_assigned (by simp [h]) d s) rfl ok

/-! ### The engine -/

/-- An operation in flight holds SYNC low by its mode and its line alone. -/
theorem syncHeldLow_congr {s t : State} (hs : s.fsm ≠ .idle) (ht : t.fsm ≠ .idle) (mode : t.mode = s.mode)
    (pc : t.pc = s.pc) : syncHeldLow t = syncHeldLow s := by
  simp [syncHeldLow, hs, ht, mode, pc]

/-- The lines that make no call leave SYNC held or not, as it was (R129). -/
theorem Goes.syncHeldLow_eq {s : State} {f : Fsm} {p : EngineLine} {r : OpResult} (h : Goes s f p r)
    (hs : s.fsm ≠ .idle) : syncHeldLow { s with fsm := f, pc := p, res := r } = syncHeldLow s := by
  cases h with
  | s1 hpc mode | w2 hpc mode => simp [syncHeldLow, mode]
  | s3 hpc | noWait hpc | failing hpc | confirmed hpc | latching hpc | unlatched hpc | decoded _ hpc | c2 hpc =>
    simp [syncHeldLow, hs, hpc]

/-- After a step an assigned line stands at its level because the step drove it there, or because neither its register
nor its level has changed. -/
def StandsAfter (s t : State) (r : CtlLine) : Prop :=
  getLine r t = .known (standingLevel t r) ∨ getLine r t = getLine r s ∧ standingLevel t r = standingLevel s r

/-- A call that drives its line to the level at which it stands after the step. -/
theorem Drives.standsAfter {p : Pins} {q : CtlLine} {v : Level} {s t : State} {a : Bool × State}
    (h : Drives p q v s a) (lines : ∀ r, getLine r t = getLine r a.2) (level : standingLevel t q = v)
    (others : ∀ r, r ≠ q → standingLevel t r = standingLevel s r) {r : CtlLine} (assigned : (p.ctl r).isSome = true) :
    StandsAfter s t r := by
  by_cases hr : r = q
  · subst hr
    exact .inl (by rw [lines, h.line assigned, level])
  · exact .inr ⟨(lines r).trans (h.others r hr), others r hr⟩

theorem EngineMove.standsAfter {s t : State} (h : EngineMove s t) (hs : s.fsm ≠ .idle)
    (ok : t.trace.any isLineFailure = false) {r : CtlLine} (assigned : (s.cfg.pins.ctl r).isSome = true) :
    StandsAfter s t r := by
  cases h with
  | goes f p q next => exact .inr ⟨getLine_congr rfl rfl rfl r, standingLevel_congr (by rfl) (next.syncHeldLow_eq hs) r⟩
  | calls v p direct next =>
    refine (setLine_drives (by simpa using ok)).standsAfter (getLine_congr (by simp) (by simp) (by simp)) ?_
      (fun q hq => by simp [standingLevel_of_ne_sync hq]) assigned
    cases next <;> simp [standingLevel_sync, syncHeldLow, hs, direct]
  | idles q v p next =>
    refine (setLine_drives ok).standsAfter (getLine_congr (by rfl) (by rfl) (by rfl)) ?_ ?_ assigned
    · cases next with
      | sync => simp [standingLevel_sync, syncHeldLow]
      | latch => simp [standingLevel_of_ne_sync, idleLevel]
    · cases next with
      | sync => exact fun q hq => by simp [standingLevel_of_ne_sync hq]
      | latch hpc => exact fun q _ => standingLevel_congr (by simp) (by simp [syncHeldLow, hpc]) q
  | queueFull =>
    exact .inr ⟨getLine_congr (by simp) (by simp) (by simp) r,
      standingLevel_congr (by simp) (syncHeldLow_congr hs (by simpa using hs) (by simp) (by simp)) r⟩
  | submits =>
    exact .inr ⟨getLine_congr rfl rfl rfl r, standingLevel_congr rfl (syncHeldLow_congr hs hs rfl rfl) r⟩
  | awaited cs hpc =>
    exact .inr ⟨getLine_congr (by simp) (by simp) (by simp) r,
      standingLevel_congr (by simp) (by simp [syncHeldLow, hpc]) r⟩
  | expires a p hpc next =>
    refine .inr ⟨getLine_congr (by simp) (by simp) (by simp) r, standingLevel_congr (by simp) ?_ r⟩
    rcases next with ⟨_, rfl⟩ | ⟨_, rfl⟩ <;> simp [syncHeldLow, hpc]
  | pulsed T hpc =>
    have held : syncHeldLow { (latchPulse T s).2 with pc := .c2 } = syncHeldLow s := by simp [syncHeldLow, hpc]
    exact (pulseLine_drives ok).standsAfter (getLine_congr (by rfl) (by rfl) (by rfl))
      (by simp [standingLevel_of_ne_sync]) (fun q _ => standingLevel_congr (by simp) held q) assigned
  | pulseFailed T hpc failed =>
    have answer := (pulseLine_drives (by simpa [latchPulse] using ok)).answer
    exact absurd (answer.symm.trans failed) nofun
  | ends q last =>
    refine .inr ⟨getLine_congr rfl rfl rfl r, standingLevel_congr (by rfl) ?_ r⟩
    rcases last with ⟨hpc, _⟩ | ⟨hpc, _⟩ <;> simp [syncHeldLow, hpc]

theorem EngineMove.linesStand {s t : State} (h : EngineMove s t) (hinv : Inv s) (hs : s.fsm ≠ .idle)
    (ok : t.trace.any isLineFailure = false) (hl : LinesStand s) : LinesStand t := by
  have e := h.sameOperation
  refine ⟨fun hv r assigned => ?_, fun o ho => ?_⟩
  · rw [e.cfg] at assigned
    rcases h.standsAfter hs ok assigned with driven | ⟨line, level⟩
    · exact driven
    · rw [line, level]
      exact hl.session (e.sessionValid ▸ hv) r assigned
  · rw [e.opening, hinv.opening_eq_none hs] at ho
    cases ho

/-! ### OPEN -/

/-- While an OPEN is in progress there is no session whose lines could stand anywhere. -/
theorem LinesStand.whileOpening {t : State} (hv : t.sessionValid = false)
    (opening : ∀ o, t.opening = some o → ∀ r, o.madeCall r = true → (o.cfg.pins.ctl r).isSome = true →
      getLine r t = .known (idleLevel t.par r)) : LinesStand t :=
  ⟨fun h => absurd (hv.symm.trans h) nofun, opening⟩

/-- A call of OPEN that drives its role's line to its idle level is one more call made (R183). -/
theorem openNext_linesStand {s : State} {o : Opening} {l : OpenLine} {r : CtlLine} {a : Bool × State}
    (hl : LinesStand s) (ho : s.opening = some o) (hv : a.2.sessionValid = false) (par : a.2.par = s.par)
    (drives : Drives o.cfg.pins r (idleLevel s.par r) s a)
    (calls : ∀ q, q ≠ r → ({ o with line := l } : Opening).madeCall q = true → o.madeCall q = true) :
    LinesStand (openNext o l a) := by
  refine .whileOpening hv fun o' ho' q made assigned => ?_
  have hline : getLine q (openNext o l a) = getLine q a.2 := getLine_congr rfl rfl rfl q
  simp only [openNext, drives.answer, if_true, Option.some.injEq] at ho'
  subst ho'
  rw [hline, openNext_par, par]
  by_cases hq : q = r
  · subst hq
    exact drives.line assigned
  · rw [drives.others q hq]
    exact hl.opening o ho q (calls q hq made) assigned

/-- The lines of O3 drive each role to its idle level, one after the other (R183). -/
theorem madeCall_of_next {p : Params} {o : Opening} {r : CtlLine} {v : Level} {l : OpenLine}
    (h : (o.line, r, v, l) ∈ [(OpenLine.sync, CtlLine.sync, Level.high, OpenLine.latch),
      (.latch, .latch, p.latchIdle, .reset), (.reset, .reset, .high, .pulse)]) :
    v = idleLevel p r ∧ ∀ q, q ≠ r → ({ o with line := l } : Opening).madeCall q = true → o.madeCall q = true := by
  simp only [List.mem_cons, Prod.mk.injEq, List.not_mem_nil, or_false] at h
  rcases h with ⟨hl, rfl, rfl, rfl⟩ | ⟨hl, rfl, rfl, rfl⟩ | ⟨hl, rfl, rfl, rfl⟩
  all_goals exact ⟨rfl, fun q hq => by cases q <;> simp_all [Opening.madeCall]⟩

theorem openStep_linesStand {s t : State} {o : Opening} (hinv : Inv s) (ho : s.opening = some o)
    (h : openStep o s = .next t) (ok : t.trace.any isLineFailure = false) (hl : LinesStand s) : LinesStand t := by
  have hv := (hinv.opening o ho).noSession
  rcases openStep_cases h with ⟨r, v, l, rfl, hnext⟩ | ⟨T, hline, _, rfl⟩ | ⟨hline, rfl⟩ | ⟨_, rfl⟩
  · obtain ⟨rfl, calls⟩ := madeCall_of_next hnext
    exact openNext_linesStand hl ho (by simpa using hv) (by simp) (setLine_drives ok) calls
  · have made (q : CtlLine) : o.madeCall q = true := by cases q <;> simp [Opening.madeCall, hline]
    have drives : Drives o.cfg.pins .reset (idleLevel s.par .reset) s (openPulse T o.cfg.pins s) := by
      rcases openPulse_cases T o.cfg.pins s with e | e
      · rw [e]
        exact ⟨rfl, hl.opening o ho .reset (made .reset), fun _ _ => rfl⟩
      · have ok' : (openPulse T o.cfg.pins s).2.trace.any isLineFailure = false := ok
        rw [e] at ok' ⊢
        exact pulseLine_drives ok'
    exact openNext_linesStand hl ho (by simpa using hv) (by simp) drives fun q _ _ => made q
  · have made (q : CtlLine) : o.madeCall q = true := by cases q <;> simp [Opening.madeCall, hline]
    refine ⟨fun _ r assigned => ?_, nofun⟩
    have held : syncHeldLow (establish o.handle o.cfg s) = false := by
      simp [syncHeldLow, hinv.idle_of_noSession hv]
    have assigned : (o.cfg.pins.ctl r).isSome = true := assigned
    rw [getLine_establish, if_neg (Option.isSome_iff_ne_none.mp assigned), standingLevel_of_not_held held]
    exact hl.opening o ho r (made r) assigned
  · exact .whileOpening hv nofun

/-! ### Steps -/

/-- A step that leaves the session, the OPEN in progress, the LINE registers and whether SYNC is held. -/
theorem LinesStand.congr {s t : State} (hl : LinesStand s) (par : t.par = s.par) (cfg : t.cfg = s.cfg)
    (session : t.sessionValid = s.sessionValid) (opening : t.opening = s.opening)
    (lines : ∀ r, getLine r t = getLine r s) (held : syncHeldLow t = syncHeldLow s) : LinesStand t where
  session hv r assigned := by
    rw [lines, standingLevel_congr par held]
    exact hl.session (session ▸ hv) r (cfg ▸ assigned)
  opening o ho r made assigned := by
    rw [lines, par]
    exact hl.opening o (opening ▸ ho) r made assigned

theorem InputMove.linesStand {x : Option Input} {s t : State} (h : InputMove x s t) (hinv : Inv s)
    (ok : t.trace.any isLineFailure = false) (hl : LinesStand s) : LinesStand t := by
  cases h with
  | reset => exact .whileOpening rfl nofun
  | unassigned | codec | refused | rest => exact hl.congr rfl rfl rfl rfl (getLine_congr rfl rfl rfl) rfl
  | beginOpen w hd c T _ _ noSession =>
    refine .whileOpening noSession fun o ho r made => ?_
    cases ho
    cases r <;> cases made
  | admitted m b ws l T fs _ _ idle =>
    exact hl.congr rfl rfl rfl rfl (getLine_congr rfl rfl rfl) (by simp [syncHeldLow, idle])
  | openLine o _ _ ho line => exact openStep_linesStand hinv ho line ok hl
  | engine _ _ inFlight move => exact move.linesStand hinv inFlight ok hl
  | performed id rok rx =>
    exact hl.congr (by simp) (by simp) (by simp) (by simp) (getLine_congr (by simp) (by simp) (by simp))
      (by simp [syncHeldLow])

end Sys2Proof.Machine

open Sys2Proof Sys2Proof.Machine in
/-- Settles O55: a step that adds no failed line call drives a line to the level at which it then stands, or leaves
both its register and its level. -/
theorem linesStandAtTheirLevels : Obligations.LinesStandAtTheirLevels := by
  intro s t hinv hline h
  have hinv' : Inv t := registerInvariantIsKept s t hinv h
  rw [lineInv_iff hinv] at hline
  rw [lineInv_iff hinv']
  intro ok
  obtain ⟨es, trace, _⟩ := step_adds_one_event h
  have hl : LinesStand s := hline (any_isLineFailure_of_append trace ok)
  obtain ⟨i, d, hmove⟩ := inputMove_of_step h
  exact hmove.linesStand (hinv.afterInput i d) ok
    (hl.congr rfl rfl rfl rfl (getLine_congr rfl rfl rfl) rfl)
end

section
/-! PROOF. The line calls of an operation in flight, whatever the driver answers (R122 to R127, R194, R200), and the
ends of the maximum wait (R143, R203). -/

namespace Sys2Proof.Machine

/-! ### Calls whose answer is listed -/

section

variable {p : Pins} {r : CtlLine} {s : State} {a : Bool} {answers : List Bool}
  (assigned : (p.ctl r).isSome = true) (listed : s.lineAnswers = a :: answers)
include assigned listed

/-- `SetLine` on an assigned role with the driver's listed answer (R45). -/
theorem setLine_listed (v : Level) : setLine p r v s =
    (a, emit (.line r v a) (putLine r (lineAfter a v) { s with lineAnswers := answers })) := by
  obtain ⟨l, hl⟩ := Option.isSome_iff_exists.mp assigned
  simp [setLine, hl, takeLineAnswer_listed listed]

/-- `PulseLine` on an assigned role with the driver's listed answer (R46). -/
theorem pulseLine_listed (d : Nat) : pulseLine p r d s =
    (a, emit (.pulse r d a) (putLine r (lineAfter a (idleLevel s.par r)) { s with lineAnswers := answers })) := by
  obtain ⟨l, hl⟩ := Option.isSome_iff_exists.mp assigned
  simp [pulseLine, hl, takeLineAnswer_listed listed]

end

/-- A step that fails leaves `FAIL` set and `ERR` with the operation's first error (R16, R203). -/
theorem recordError_eq (e : Error) (u : State) :
    recordError e u = { u with failed := true, err := if u.failed then u.err else e } := by
  cases u
  simp only [recordError]
  split <;> simp_all

/-- A call's failure recorded, by the driver's answer (R127). -/
theorem recordLine_eq (a : Bool) (u : State) : recordLine (a, u) = { u with
    failed := u.failed || !a, err := if u.failed || a then u.err else .lineSequencingFailed } := by
  cases a with
  | true => simp [recordLine]
  | false => simp [recordLine, recordError_eq]

/-! ### The lines of the engine that call SYNC or LATCH -/

section

variable {s : State} {a : Bool} {answers : List Bool} (hs : s.fsm ≠ .idle) (listed : s.lineAnswers = a :: answers)
include hs listed

/-- Line S1 in Direct mode (R122, R127). -/
theorem engineStep_s1_direct (hpc : s.pc = .s1) (direct : s.mode = .direct)
    (sync : (s.cfg.pins.ctl .sync).isSome = true) : engineStep s = .next { s with
      pc := .s2, lineAnswers := answers, lineSync := lineAfter a .low
      failed := s.failed || !a, err := if s.failed || a then s.err else .lineSequencingFailed
      trace := s.trace ++ [.line .sync .low a] } := by
  simp [engineStep, hs, hpc, stepS1, direct, syncAssert, setLine_listed sync listed, recordLine_eq, emit, putLine]

/-- Line W2 in Direct mode (R123, R127). -/
theorem engineStep_w2_direct (hpc : s.pc = .w2) (direct : s.mode = .direct)
    (sync : (s.cfg.pins.ctl .sync).isSome = true) : engineStep s = .next { s with
      pc := .w3, lineAnswers := answers, lineSync := lineAfter a .high
      failed := s.failed || !a, err := if s.failed || a then s.err else .lineSequencingFailed
      trace := s.trace ++ [.line .sync .high a] } := by
  simp [engineStep, hs, hpc, stepW2, direct, syncDeassert, setLine_listed sync listed, recordLine_eq, emit, putLine]

/-- The latch pulse of an operation without an error, on an assigned LATCH (R124, R127, R149). -/
theorem engineStep_latch_listed {T : FamilyTable} (hpc : s.pc = .latch) (hT : sessionTable? s = some T)
    (latch : (s.cfg.pins.ctl .latch).isSome = true) (clean : s.failed = false) (hres : s.res = .ok) :
    engineStep s = .next { s with
      pc := .c2, lineAnswers := answers, lineLatch := lineAfter a s.par.latchIdle
      failed := !a, err := if a then s.err else .lineSequencingFailed
      res := if a then .ok else .err .lineSequencingFailed
      trace := s.trace ++ [.pulse .latch T.tLatchHoldMin a] } := by
  cases a <;> simp [engineStep, hs, hpc, withTable_eq hT, stepLatch, latchPulse, pulseLine_listed latch listed,
    recordError, emit, putLine, idleLevel, clean, hres]

/-- The first call of LINES_IDLE (R126). -/
theorem engineStep_w1Sync (hpc : s.pc = .w1Sync) (sync : (s.cfg.pins.ctl .sync).isSome = true) :
    engineStep s = .next { s with
      pc := .w1Latch, lineAnswers := answers, lineSync := lineAfter a .high
      trace := s.trace ++ [.line .sync .high a] } := by
  simp [engineStep, hs, hpc, linesIdleSync, setLine_listed sync listed, emit, putLine]

/-- The second call of LINES_IDLE, which is none where LATCH is unassigned (R126, R128). -/
theorem engineStep_w1Latch (hpc : s.pc = .w1Latch) : engineStep s = .next { s with
      pc := .w3, lineAnswers := if s.cfg.pins.latch.isSome then answers else a :: answers
      lineLatch := if s.cfg.pins.latch.isSome then lineAfter a s.par.latchIdle else s.lineLatch
      trace := s.trace ++ if s.cfg.pins.latch.isSome then [.line .latch s.par.latchIdle a] else [] } := by
  cases latch : s.cfg.pins.latch with
  | none =>
    have unassigned : s.cfg.pins.ctl .latch = none := latch
    simp [engineStep, hs, hpc, linesIdleLatch, setLine_unassigned unassigned, ← listed]
  | some l =>
    have assigned : (s.cfg.pins.ctl .latch).isSome = true := Option.isSome_iff_exists.mpr ⟨l, latch⟩
    simp [engineStep, hs, hpc, linesIdleLatch, setLine_listed assigned listed, emit, putLine]

end

/-! ### The ends of the maximum wait -/

/-- The maximum wait runs out: the event, the completions, and `Timeout` unless an error is recorded (R16, R200). -/
theorem waitExpires_timeout {s : State} (h : mayExpire s = true) : waitExpires false s = { s with
    pc := .w1Sync, transport := clearCompletions s.transport (awaitedIds s), failed := true
    err := if s.failed then s.err else .timeout, trace := s.trace ++ [.await (awaitedIds s) .timeout] } := by
  simp [waitExpires, h, awaitReturns, recordAwait, recordError_eq, emit]

/-- The wait ends early, a transfer named having failed: the event, the completions, and the error the mode gives the
answer, unless one is recorded (R16, R199, R203). -/
theorem waitExpires_failure {s : State} (h : mayExpire s = true)
    (hfail : anyCompletedFailed s.transport (awaitedIds s) = true) : waitExpires true s = { s with
      pc := .w2, transport := clearCompletions s.transport (awaitedIds s), failed := true
      err := if s.failed then s.err else awaitError s.mode
      trace := s.trace ++ [.await (awaitedIds s) .transportFailure] } := by
  simp [waitExpires, h, hfail, awaitReturns, recordAwait, recordError_eq, emit]

/-- A step at the end of the maximum wait. -/
theorem step_expire {s : State} {p : Bool} {rest : List Input} (h : s.inbox = .move (.expire p) :: rest) :
    step s = .next (waitExpires p { s with inbox := rest }) :=
  step_move h

end Sys2Proof.Machine

open Sys2Proof Sys2Proof.Machine in
/-- Settles O35: each of the three lines by its equation, whatever the driver answers. -/
theorem failedLineCallIsRecorded : Obligations.FailedLineCallIsRecorded := by
  intro s T a answers rest hinv hT listed hbox
  have hrun (hs : s.fsm ≠ .idle) : step s = engineStep { s with inbox := rest } :=
    step_run hbox (hinv.opening_eq_none hs)
  refine ⟨fun hpc direct => ?_, fun hpc direct => ?_, fun hpc latch => ?_⟩
  · have hs : s.fsm ≠ .idle := by rw [pcFits_submitting hinv.pc (.inl hpc)]; nofun
    have sync := hinv.sync_assigned (hinv.flight hs).session
    have clean := ((hinv.flight hs).fresh hpc).2
    rw [hrun hs, engineStep_s1_direct (s := { s with inbox := rest }) hs listed hpc direct sync]
    simp [clean, lineAfter]
  · have hs : s.fsm ≠ .idle := by rw [pcFits_awaiting hinv.pc (by simp [hpc])]; nofun
    have sync := hinv.sync_assigned (hinv.flight hs).session
    rw [hrun hs, engineStep_w2_direct (s := { s with inbox := rest }) hs listed hpc direct sync]
    rfl
  · have hs : s.fsm ≠ .idle := by rw [pcFits_latching hinv.pc hpc]; nofun
    obtain ⟨_, clean, _, _, hres⟩ := complete_of_latch (hinv.flight hs) hinv.pc hpc
    rw [hrun hs, engineStep_latch_listed (s := { s with inbox := rest }) hs listed hpc hT
      (Option.isSome_iff_ne_none.mpr latch) clean hres]
    rfl

open Sys2Proof Sys2Proof.Machine in
/-- Settles O34: the wait ends, and after a timeout each call of LINES_IDLE is a line of its own. -/
theorem timeoutIdlesTheLines : Obligations.TimeoutIdlesTheLines := by
  refine ⟨fun s a b answers rest hinv hexp listed hbox => ?_, fun s rest hinv hexp hfail hbox => ?_⟩
  · obtain ⟨hs, hpc, _⟩ := mayExpire_iff.mp hexp
    have ho := hinv.opening_eq_none hs
    have hfsm := pcFits_awaiting hinv.pc (.inl hpc)
    have sync := hinv.sync_assigned (hinv.flight hs).session
    have hexpires : step s = .next { s with
        inbox := runs 2 ++ rest, pc := .w1Sync, transport := clearCompletions s.transport (awaitedIds s)
        trace := s.trace ++ [.await (awaitedIds s) .timeout], failed := true
        err := if s.failed then s.err else .timeout } := by
      rw [step_expire (rest := runs 2 ++ rest) hbox,
        waitExpires_timeout (s := { s with inbox := runs 2 ++ rest }) hexp]
      rfl
    refine ⟨_, (runSteps_next hexpires).trans <|
      runSteps_engine rfl ho (engineStep_w1Sync hs listed rfl sync) <|
      runSteps_engine rfl ho (engineStep_w1Latch hs rfl rfl) (runSteps_zero _), ?_⟩
    simp [hfsm, lineAfter, clearCompletions]
  · rw [step_expire hbox, waitExpires_failure (s := { s with inbox := rest }) hexp hfail, awaitError_eq]
    have hids : awaitedIds { s with inbox := rest } = awaitedIds s := rfl
    simp [clearCompletions, hids]
end

section
/-! PROOF. How an operation in flight ends, and how many pulses it has made by then (R130, R143 C3 and F1, R149). -/

namespace Sys2Proof.Machine

/-! ### The end of an operation -/

/-- A line of the engine that leaves no operation in flight is C3 or F1 (R143). -/
theorem EngineMove.ends_of_idle {s t : State} (h : EngineMove s t) (hs : s.fsm ≠ .idle) (ht : t.fsm = .idle) :
    ∃ r, t = finishOp r s ∧ (s.pc = .c3 ∧ r = s.res ∨ s.pc = .f1 ∧ r = .err s.err) := by
  cases h with
  | ends r last => exact ⟨r, rfl, last⟩
  | goes f p r next =>
    cases next with
    | s1 | noWait | w2 | unlatched | decoded | c2 => exact absurd ht hs
    | s3 | failing | confirmed | latching => exact absurd ht nofun
  | _ => exact absurd (by simpa using ht) hs

/-- An operation that ends does so at line C3 with its result, or at line F1 with its error (R143, R204). -/
theorem OpEnds.finishes {s t : State} (h : OpEnds s t) (hinv : Inv s) : ∃ i d r,
    t = finishOp r { s with inbox := i, draws := d } ∧ (s.pc = .c3 ∧ r = s.res ∨ s.pc = .f1 ∧ r = .err s.err) := by
  obtain ⟨hs, hstep, idle, session⟩ := h
  obtain ⟨i, d, hmove⟩ := inputMove_of_step hstep
  suffices ∃ r, t = finishOp r { s with inbox := i, draws := d } ∧
      (s.pc = .c3 ∧ r = s.res ∨ s.pc = .f1 ∧ r = .err s.err) from ⟨i, d, this⟩
  cases hmove with
  | reset => exact absurd session nofun
  | admitted _ _ _ _ _ _ _ _ notBusy => exact absurd notBusy hs
  | openLine o _ _ ho => exact absurd ((hinv.opening_eq_none hs).symm.trans ho) nofun
  | engine _ _ _ move => exact move.ends_of_idle hs idle
  | unassigned | codec | refused | beginOpen | rest => exact absurd idle hs
  | performed => exact absurd (by simpa using idle) hs

/-- The operation's events after its end are those before and its `Ret`. -/
theorem opEvents_finishOp {s : State} (start : s.opStart ≤ s.trace.length) (r : OpResult) :
    opEvents (finishOp r s) = opEvents s ++ [.ret (opInFlight s) r] :=
  List.drop_append_of_le_length start

theorem latchPulses_ret (tr : List Event) (op : HostOp) (r : OpResult) :
    latchPulses (tr ++ [.ret op r]) = latchPulses tr :=
  latchPulses_append tr _

theorem resetPulses_ret (tr : List Event) (op : HostOp) (r : OpResult) :
    resetPulses (tr ++ [.ret op r]) = resetPulses tr :=
  resetPulses_append tr _

/-! ### The latch pulses of an operation -/

/-- R143's list holds one latch pulse where the operation is past it and LATCH is assigned, and else none (R128,
R149). -/
theorem latchPulses_expectedEvents_eq (T : FamilyTable) (s : State) : latchPulses (expectedEvents T s) =
    if s.fsm = .latching ∧ s.pc ≠ .latch ∧ s.cfg.pins.latch.isSome = true then 1 else 0 := by
  have hsplit : expectedEvents T s = expectedEvents T { s with fsm := .allConfirmed } ++
      if s.fsm = .latching ∧ s.pc ≠ .latch ∧ s.cfg.pins.latch.isSome = true then
        [.pulse .latch T.tLatchHoldMin (decide (s.res = .ok))] else [] := by
    simp [expectedEvents, awaitedIds]
  rw [hsplit, latchPulses_append, latchPulses_expectedEvents T (by simp), Nat.zero_add]
  split <;> rfl

/-- The same of the operation's trace: an operation with an error recorded has not come to `Latching` (R127, R163). -/
theorem FlightTrace.latchPulses_eq {s : State} (h : FlightTrace s) (hT : ∃ T, sessionTable? s = some T) :
    latchPulses (opEvents s) =
      if s.fsm = .latching ∧ s.pc ≠ .latch ∧ s.cfg.pins.latch.isSome = true then 1 else 0 := by
  by_cases hl : s.fsm = .latching
  · obtain ⟨T, hT⟩ := hT
    rw [← latchPulses_expectedEvents_eq T, ← h.success (.inr hl) T hT]
    exact (latchPulses_filter _).symm
  · rw [h.latchPulses_eq_zero hT hl, if_neg fun hc => hl hc.1]

/-- An operation about to end is in `Latching` exactly if it has asked for the latch and no step before the pulse has
failed (R149, R160). -/
theorem latching_iff_of_ending {s : State} (hs : FlightOk s) (hp : pcFits s.fsm s.pc = true)
    (hpc : s.pc = .c3 ∨ s.pc = .f1) : s.fsm = .latching ↔ s.latchReq = true ∧ confirmedSoFar s := by
  refine ⟨fun hl => ⟨hs.latching hl, .inr hl⟩, fun ⟨asked, hc⟩ => ?_⟩
  rcases hpc with hpc | hpc
  · rcases pcFits_ending hp (.inr hpc) with hf | hf
    · exact absurd (asked.symm.trans (hs.notLatch hf (by simp [hpc]))) nofun
    · exact hf
  · have hf : s.fsm = .anyFailed := by cases hf : s.fsm <;> simp_all [pcFits]
    exact absurd hc (not_confirmedSoFar (hs.failing hf) (by simp [hf]))

/-- The latch pulses of an operation about to end (R130). -/
theorem latchPulses_of_ending {s : State} (hinv : Inv s) (hop : FlightTrace s) (hs : s.fsm ≠ .idle)
    (hpc : s.pc = .c3 ∨ s.pc = .f1) : latchPulses (opEvents s) ≤ 1 ∧
      (latchPulses (opEvents s) = 1 ↔ s.latchReq = true ∧ s.cfg.pins.latch ≠ none ∧ confirmedSoFar s) := by
  have hfl := hinv.flight hs
  have hpassed : s.pc ≠ .latch := by rcases hpc with hpc | hpc <;> simp [hpc]
  have hiff : (s.fsm = .latching ∧ s.pc ≠ .latch ∧ s.cfg.pins.latch.isSome = true) ↔
      s.latchReq = true ∧ s.cfg.pins.latch ≠ none ∧ confirmedSoFar s := by
    rw [latching_iff_of_ending hfl hinv.pc hpc, Option.isSome_iff_ne_none]
    exact ⟨fun ⟨⟨asked, hc⟩, _, assigned⟩ => ⟨asked, assigned, hc⟩,
      fun ⟨asked, assigned, hc⟩ => ⟨⟨asked, hc⟩, hpassed, assigned⟩⟩
  rw [hop.latchPulses_eq (hinv.table hfl.session), ← hiff]
  split
  · exact ⟨le_refl 1, iff_of_true rfl (by assumption)⟩
  · exact ⟨Nat.zero_le 1, iff_of_false nofun (by assumption)⟩

/-! ### What no step of an operation changes -/

theorem EngineMove.opStart {s t : State} (h : EngineMove s t) : t.opStart = s.opStart := by
  cases h <;> simp

/-- A line of OPEN touches none of the engine's registers. -/
theorem openStep_keepsEngine {o : Opening} {s t : State} (h : openStep o s = .next t) :
    t.latchReq = s.latchReq ∧ t.mode = s.mode ∧ t.rdback = s.rdback ∧ t.opStart = s.opStart := by
  rcases openStep_cases h with ⟨r, v, l, rfl, _⟩ | ⟨T, _, _, rfl⟩ | ⟨_, rfl⟩ | ⟨_, rfl⟩
  · exact ⟨by simp, by simp, by simp, by simp⟩
  · exact ⟨by simp, by simp, by simp, by simp⟩
  · exact ⟨rfl, rfl, rfl, rfl⟩
  · exact ⟨rfl, rfl, rfl, rfl⟩

/-- An operation in flight keeps what admission has loaded of how it runs and where its events begin (R17, R18). -/
theorem InputMove.keepsOperation {x : Option Input} {s t : State} (h : InputMove x s t) (hs : s.fsm ≠ .idle)
    (ht : t.fsm ≠ .idle) :
    t.latchReq = s.latchReq ∧ t.mode = s.mode ∧ t.rdback = s.rdback ∧ t.opStart = s.opStart := by
  cases h with
  | reset => exact absurd rfl ht
  | admitted _ _ _ _ _ _ _ _ idle => exact absurd idle hs
  | openLine o _ _ _ line => exact openStep_keepsEngine line
  | engine _ _ _ move =>
    have e := move.sameOperation
    exact ⟨e.latchReq, e.mode, e.rdback, move.opStart⟩
  | performed => exact ⟨by simp, by simp, by simp, by simp⟩
  | unassigned | codec | refused | beginOpen | rest => exact ⟨rfl, rfl, rfl, rfl⟩

/-- A batch admitted records whether it asks for the latch (R17, R141). -/
theorem execWriteBatch_loads {s t : State} {ws : List RegisterWord} {l : Bool} (hs : s.fsm = .idle)
    (h : exec (.hostWriteBatch ws l) s = .next t) (ht : t.fsm = .submitting) :
    t.mode = .pipelined ∧ t.latchReq = l := by
  have h : admission .writeBatchOp .pipelined false ws l s = .next t := h
  rcases admission_cases h with ⟨e, _, rfl⟩ | ⟨_, _, _, _, _, _, _, _, rfl⟩
  · exact absurd (hs.symm.trans ht) nofun
  · exact ⟨rfl, rfl⟩

/-- In Direct mode a WRITE asks for the latch as `DIRECT_UPDATE` says, and a READ never (R17). -/
theorem FlightOk.latchReq_direct {s : State} (h : FlightOk s) (direct : s.mode = .direct) :
    s.latchReq = (!s.rdback && s.par.directUpdate) := by
  cases hr : s.rdback with
  | true => simpa using h.readback hr
  | false => simpa using h.update direct hr

end Sys2Proof.Machine

open Sys2Proof Sys2Proof.Machine in
/-- Settles O40: the pulses of an operation at its end, to which its `Ret` adds none, and what its steps keep. -/
theorem latchCountLaw : Obligations.LatchCountLaw := by
  refine ⟨fun s t hinv hop hend => ?_, fun s t ws l hs h ht => execWriteBatch_loads hs h ht, fun s t h hs ht => ?_⟩
  · have hs := hend.inFlight
    have htrace := hop hs
    obtain ⟨i, d, r, rfl, last⟩ := hend.finishes hinv
    have hpc : s.pc = .c3 ∨ s.pc = .f1 := last.imp And.left And.left
    have hev : opEvents (finishOp r { s with inbox := i, draws := d }) = opEvents s ++ [.ret (opInFlight s) r] :=
      opEvents_finishOp (s := { s with inbox := i, draws := d }) htrace.start r
    obtain ⟨hle, hiff⟩ := latchPulses_of_ending hinv htrace hs hpc
    rw [hev, latchPulses_ret, resetPulses_ret]
    exact ⟨hle, hiff, (hinv.flight hs).latchReq_direct, htrace.noReset⟩
  · obtain ⟨i, d, hmove⟩ := inputMove_of_step h
    exact hmove.keepsOperation hs ht
end

section
/-! PROOF. Admission (R142, R143 A1 to A6): what it answers by its order of checks, refusals and the engine's
load. -/

namespace Sys2Proof.Machine

/-! ### ENCODE over the words of an operation -/

/-- The words are encoded one by one, each independently of the others (R101, R161). -/
theorem encodeAll_eq_ok_iff {T : FamilyTable} : ∀ {ws : List RegisterWord} {fs : List Nat},
    encodeAll T ws = .ok fs ↔ ws.map (encodeValue T) = fs.map .ok
  | [], fs => by cases fs <;> simp [encodeAll]
  | w :: ws, fs => by
    refine ⟨fun h => ?_, encodeAll_of_map⟩
    unfold encodeAll at h
    split at h
    · cases h
    · rename_i f hf
      split at h
      · cases h
      · rename_i fs' hfs
        cases h
        rw [List.map_cons, List.map_cons, hf, encodeAll_eq_ok_iff.mp hfs]

/-- Words that the family can all carry have frame values (R101). -/
theorem exists_map_encodeValue {T : FamilyTable} : ∀ {ws : List RegisterWord}, ws.all (representable T) = true →
    ∃ fs : List Nat, ws.map (encodeValue T) = fs.map .ok
  | [], _ => ⟨[], rfl⟩
  | w :: ws, h => by
    rw [List.all_cons, Bool.and_eq_true] at h
    obtain ⟨f, hf⟩ := representable_iff_encodeValue.mp h.1
    obtain ⟨fs, hfs⟩ := exists_map_encodeValue h.2
    exact ⟨f :: fs, by rw [List.map_cons, List.map_cons, hf, hfs]⟩

/-- One word the family cannot carry makes ENCODE of all refuse (R143 A5). -/
theorem encodeAll_of_not_representable {T : FamilyTable} {ws : List RegisterWord}
    (h : ws.all (representable T) = false) : encodeAll T ws = .error .unsupportedField := by
  cases e : encodeAll T ws with
  | error err => rw [encodeAll_error e]
  | ok fs =>
    have hall : ws.all (representable T) = true := List.all_eq_true.mpr fun w hw => by
      have hmem : encodeValue T w ∈ fs.map .ok := encodeAll_eq_ok_iff.mp e ▸ List.mem_map_of_mem hw
      obtain ⟨f, _, hf⟩ := List.mem_map.mp hmem
      exact representable_iff_encodeValue.mpr ⟨f, hf.symm⟩
    exact absurd (hall.symm.trans h) nofun

/-! ### The checks in their order -/

section

variable {s : State} {op : HostOp} {m : Mode} {b : Bool} {ws : List RegisterWord} {l : Bool}

theorem readBackMissing_iff {T : FamilyTable} : readBackMissing T b s = true ↔
    b = true ∧ (T.bidirectional = false ∨ s.cfg.pins.din = none) := by
  simp [readBackMissing]

theorem readBackMissing_eq_false {T : FamilyTable} (hb : T.bidirectional = true) (hd : s.cfg.pins.din ≠ none) :
    readBackMissing T b s = false := by
  rw [Bool.eq_false_iff, Ne, readBackMissing_iff]
  simp [hb, hd]

theorem batchTooLong_iff : batchTooLong m ws s = true ↔ m = .pipelined ∧ s.cfg.depth < ws.length := by
  simp [batchTooLong]

section

variable (hv : s.sessionValid = true)
include hv

/-- A2 (R143, R158). -/
theorem admission_busy (hs : s.fsm ≠ .idle) : admission op m b ws l s = .next (refuseOp op .transportBusy s) := by
  simp [admission, hv, hs]

variable {T : FamilyTable} (hs : s.fsm = .idle) (hT : sessionTable? s = some T)
include hs hT

/-- A3 (R143, R155). -/
theorem admission_noReadBack (hr : readBackMissing T b s = true) :
    admission op m b ws l s = .next (refuseOp op .unsupportedField s) := by
  simp [admission, hv, hs, withTable_eq hT, hr]

variable (hr : readBackMissing T b s = false)
include hr

/-- A4 (R143, R157). -/
theorem admission_tooLong (hlong : batchTooLong m ws s = true) :
    admission op m b ws l s = .next (refuseOp op .queueFull s) := by
  simp [admission, hv, hs, withTable_eq hT, hr, hlong]

variable (hshort : batchTooLong m ws s = false)
include hshort

/-- A5 (R143). -/
theorem admission_unencodable (hw : ws.all (representable T) = false) :
    admission op m b ws l s = .next (refuseOp op .unsupportedField s) := by
  simp [admission, hv, hs, withTable_eq hT, hr, hshort, encodeAll_of_not_representable hw]

/-- A6 (R143). -/
theorem admission_loads {fs : List Nat} (hfs : ws.map (encodeValue T) = fs.map .ok) :
    admission op m b ws l s = .next (loadEngine m b fs l s) := by
  simp [admission, hv, hs, withTable_eq hT, hr, hshort, encodeAll_of_map hfs]

end

/-- Admission answers by the first of its checks that applies (R142). -/
theorem admission_answers {T : FamilyTable} (hT : sessionTable? s = some T) :
    AdmissionAnswers T op m b ws l s (admission op m b ws l s) := by
  unfold AdmissionAnswers admissionRefusal
  by_cases hv : s.sessionValid = false
  · rw [if_pos hv]
    exact admission_noSession hv op m b ws l
  rw [if_neg hv]
  have hv : s.sessionValid = true := by simpa using hv
  by_cases hs : s.fsm ≠ .idle
  · rw [if_pos hs]
    exact admission_busy hv hs
  rw [if_neg hs]
  have hs : s.fsm = .idle := not_not.mp hs
  by_cases hr : b = true ∧ (T.bidirectional = false ∨ s.cfg.pins.din = none)
  · rw [if_pos hr]
    exact admission_noReadBack hv hs hT (readBackMissing_iff.mpr hr)
  rw [if_neg hr]
  have hr : readBackMissing T b s = false := Bool.eq_false_iff.mpr (mt readBackMissing_iff.mp hr)
  by_cases hlong : m = .pipelined ∧ s.cfg.depth < ws.length
  · rw [if_pos hlong]
    exact admission_tooLong hv hs hT hr (batchTooLong_iff.mpr hlong)
  rw [if_neg hlong]
  have hshort : batchTooLong m ws s = false := Bool.eq_false_iff.mpr (mt batchTooLong_iff.mp hlong)
  by_cases hw : ws.all (representable T) = false
  · rw [if_pos hw]
    exact admission_unencodable hv hs hT hr hshort hw
  rw [if_neg hw]
  obtain ⟨fs, hfs⟩ := exists_map_encodeValue (Bool.not_eq_false _ ▸ hw)
  exact ⟨fs, hfs, admission_loads hv hs hT hr hshort hfs⟩

end

/-- An idle block with a session admits a WRITE of a word the family can carry (R140). -/
theorem execWrite_admits {s : State} {T : FamilyTable} {w : RegisterWord} {f : Nat} (hv : s.sessionValid = true)
    (hs : s.fsm = .idle) (hT : sessionTable? s = some T) (hf : encodeValue T w = .ok f) :
    execWrite w s = .next (loadEngine .direct false [f] s.par.directUpdate s) :=
  admission_loads (ws := [w]) (fs := [f]) hv hs hT rfl rfl (congrArg (fun x => [x]) hf)

/-- The same for a READ, where the family and the pins have a read-back (R155). -/
theorem execRead_admits {s : State} {T : FamilyTable} {w : RegisterWord} {f : Nat} (hv : s.sessionValid = true)
    (hs : s.fsm = .idle) (hT : sessionTable? s = some T) (hb : T.bidirectional = true) (hd : s.cfg.pins.din ≠ none)
    (hf : encodeValue T w = .ok f) : execRead w s = .next (loadEngine .direct true [f] false s) :=
  admission_loads (ws := [w]) (fs := [f]) hv hs hT (readBackMissing_eq_false hb hd) rfl (congrArg (fun x => [x]) hf)

/-- OPEN is refused while there is a session (R180 O1, R229). -/
theorem execOpen_session {s : State} (hv : s.sessionValid = true) (h : Nat) (c : OpenCfg) :
    execOpen h c s = .next (refuseOp .openOp .transportBusy s) := by
  simp [execOpen, hv]

end Sys2Proof.Machine

open Sys2Proof Sys2Proof.Machine in
/-- Settles O29: an operation in flight has a session, and the check A2 or O1 refuses. -/
theorem busyBlockRefusesOperations : Obligations.BusyBlockRefusesOperations := by
  intro s hinv hs
  have hv := (hinv.flight hs).session
  exact ⟨fun _ => admission_busy hv hs, fun _ _ => admission_busy hv hs, fun _ => admission_busy hv hs,
    execOpen_session hv⟩

open Sys2Proof Sys2Proof.Machine in
/-- Settles O30: the check A4 comes before the words are encoded. -/
theorem longBatchIsRefused : Obligations.LongBatchIsRefused := by
  intro s ws l hinv hv hs hlong
  obtain ⟨T, hT⟩ := hinv.table hv
  exact admission_tooLong hv hs hT rfl (batchTooLong_iff.mpr ⟨rfl, hlong⟩)

open Sys2Proof Sys2Proof.Machine in
/-- Settles O26: each of the three operations is an admission. -/
theorem admissionIsOneAtomicStep : Obligations.AdmissionIsOneAtomicStep :=
  fun _ _ hT => ⟨fun _ => admission_answers hT, fun _ _ => admission_answers hT, fun _ => admission_answers hT⟩

open Sys2Proof Sys2Proof.Machine in
/-- Settles O27: none of the checks A1 to A5 applies. -/
theorem operationsAreAdmitted : Obligations.OperationsAreAdmitted := by
  intro s T hv hs hT loaded
  exact ⟨fun _ _ => execWrite_admits hv hs hT, fun _ _ l hdepth hfs => execWriteBatch_admits hv hs hT hdepth hfs l,
    fun _ _ => execRead_admits hv hs hT⟩
end

section
/-! PROOF. The engine's submissions and its wait (R143 S2 and W1, R147, R199). -/

namespace Sys2Proof.Machine

/-! ### Submission -/

/-- What a refused submission records, by mode (R199). -/
theorem submitError_eq (m : Mode) : submitError m = if m = .direct then .transportBusy else .queueFull := by
  cases m <;> rfl

/-- Line S2 with a frame to submit and no room for it (R42, R143 S2). -/
theorem engineStep_s2_full {s : State} {T : FamilyTable} {f : Nat} (hs : s.fsm ≠ .idle) (hpc : s.pc = .s2)
    (more : s.subIdx < s.n) (clean : s.failed = false) (hT : sessionTable? s = some T)
    (slot : s.frame[s.subIdx]? = some f) (full : queueFull s.transport s.cfg.handle = true) :
    engineStep s = .next { s with
      failed := true, err := submitError s.mode, trace := s.trace ++ [.subFull] } := by
  simp [engineStep, hs, hpc, stepS2, more, clean, withTable_eq hT, slot, submit_full full, afterSubmit, emit,
    recordError_eq]

/-! ### The wait -/

/-- A transfer that has not completed keeps the wait for it from returning (R43). -/
theorem completionsOf?_of_pending {t : Transport} {x : Nat} (hx : completionOf? t x = none) :
    ∀ {ids : List Nat}, x ∈ ids → completionsOf? t ids = none
  | id :: ids, h => by
    unfold completionsOf?
    rcases List.mem_cons.mp h with rfl | h
    · rw [hx]
    · rw [completionsOf?_of_pending hx h]
      split <;> simp_all

/-- The performance of another transfer leaves the completions of this one. -/
theorem completionOf?_completeTransfer_ne {t : Transport} {x : Nat} {y : Transfer} (h : y.id ≠ x) (ok : Bool)
    (rx : Nat) : completionOf? (completeTransfer t y ok rx) x = completionOf? t x := by
  simp [completionOf?, completeTransfer, h]

/-- The engine waits for the transfer `x`, which has not completed, without a maximum wait (R147). -/
structure AwaitsTransfer (x : Nat) (s : State) : Prop where
  fsm       : s.fsm = .awaitingCompletion
  pc        : s.pc = .w1
  opening   : s.opening = none
  unbounded : s.par.maxWait = none
  named     : x ∈ awaitedIds s
  pending   : completionOf? s.transport x = none

section

variable {x : Nat} {s : State} (h : AwaitsTransfer x s)
include h

theorem AwaitsTransfer.incomplete : completionsOf? s.transport (awaitedIds s) = none :=
  completionsOf?_of_pending h.pending h.named

/-- The block's move leaves the engine at its wait (R147). -/
theorem AwaitsTransfer.blockStep : blockStep s = .next s := by
  have hsub : s.subIdx ≠ 0 := fun h0 => by simpa [awaitedIds, h0] using h.named
  have hwait : stepW1 s = s := by simp [stepW1, hsub, h.incomplete]
  have hs : s.fsm ≠ .idle := by simp [h.fsm]
  rcases blockStep_cases s with ⟨o, ho, _⟩ | ⟨_, e⟩
  · exact absurd (h.opening.symm.trans ho) nofun
  · rw [e, engineStep_w1 hs h.pc, hwait]

/-- There is no maximum wait to run out (R43). -/
theorem AwaitsTransfer.waitExpires (p : Bool) : waitExpires p s = s := by
  simp [Machine.waitExpires, mayExpire, h.unbounded]

/-- The performance of another transfer leaves the engine at its wait (R61). -/
theorem AwaitsTransfer.perform {id : Nat} (hid : id ≠ x) (ok : Bool) (rx : Nat) :
    AwaitsTransfer x (perform id ok rx s) ∧ ∃ es, (perform id ok rx s).trace = s.trace ++ es ∧
      ∀ e ∈ es, ∃ id ok, e = .perf id ok := by
  rcases perform_cases id ok rx s with e | ⟨y, _, rfl, e⟩ <;> rw [e]
  · exact ⟨h, [], (List.append_nil _).symm, nofun⟩
  · exact ⟨{ h with pending := (completionOf?_completeTransfer_ne hid ok rx).trans h.pending },
      [.perf y.id ok], rfl, fun _ he => ⟨y.id, ok, List.mem_singleton.mp he⟩⟩

/-- One move of the block or the transport, other than a performance of `x`. -/
theorem AwaitsTransfer.envStep {m : EnvMove} (hm : ∀ ok rx, m ≠ .perf x ok rx) :
    ∃ t, envStep m s = .next t ∧ AwaitsTransfer x t ∧ t.inbox = s.inbox ∧
      ∃ es, t.trace = s.trace ++ es ∧ ∀ e ∈ es, ∃ id ok, e = .perf id ok := by
  cases m with
  | run => exact ⟨s, h.blockStep, h, rfl, [], (List.append_nil _).symm, nofun⟩
  | perf id ok rx =>
    obtain ⟨hwait, htrace⟩ := h.perform (fun hid => hm ok rx (hid ▸ rfl)) ok rx
    exact ⟨_, rfl, hwait, by simp, htrace⟩
  | expire p =>
    exact ⟨s, congrArg Host.Outcome.next (h.waitExpires p), h, rfl, [], (List.append_nil _).symm, nofun⟩

end

/-- The engine waits through any moves among which `x` is not performed (R147). -/
theorem AwaitsTransfer.runSteps {x : Nat} {rest : List Input} : ∀ {moves : List EnvMove} {s : State},
    AwaitsTransfer x s → (∀ ok rx, EnvMove.perf x ok rx ∉ moves) → s.inbox = moves.map .move ++ rest →
    ∃ t, runSteps moves.length s = .next t ∧ AwaitsTransfer x t ∧ t.inbox = rest ∧
      ∃ es, t.trace = s.trace ++ es ∧ ∀ e ∈ es, ∃ id ok, e = .perf id ok
  | [], s, h, _, hbox => ⟨s, rfl, h, hbox, [], (List.append_nil _).symm, nofun⟩
  | m :: moves, s, h, hx, hbox => by
    have hnext : AwaitsTransfer x { s with inbox := moves.map .move ++ rest } := { h with }
    obtain ⟨u, hstep, hu, hubox, es, htrace, hperf⟩ :=
      hnext.envStep fun ok rx hm => hx ok rx (hm ▸ List.mem_cons_self)
    obtain ⟨t, hrun, ht, htbox, es', htrace', hperf'⟩ :=
      AwaitsTransfer.runSteps hu (fun ok rx hm => hx ok rx (List.mem_cons_of_mem _ hm)) hubox
    refine ⟨t, (runSteps_next ((step_move hbox).trans hstep)).trans hrun, ht, htbox, es ++ es', ?_, ?_⟩
    · rw [htrace', htrace, List.append_assoc]
    · exact fun e he => (List.mem_append.mp he).elim (hperf e) (hperf' e)

end Sys2Proof.Machine

open Sys2Proof Sys2Proof.Machine in
/-- Settles O31: line S2 by the transport's answer to the submission. -/
theorem engineSubmitsSlotBySlot : Obligations.EngineSubmitsSlotBySlot := by
  intro s T f rest hinv hbox hpc more clean hT slot id
  have hs : s.fsm ≠ .idle := by
    rw [pcFits_submitting hinv.pc (.inr hpc)]
    nofun
  have hstep := step_run hbox (hinv.opening_eq_none hs)
  refine ⟨fun hroom => hstep.trans ?_, fun hfull => hstep.trans ?_⟩
  · exact engineStep_s2_submits (s := { s with inbox := rest }) hs hpc more clean hT slot
      (decide_eq_false (not_le.mpr hroom))
  · rw [engineStep_s2_full (s := { s with inbox := rest }) hs hpc more clean hT slot (decide_eq_true hfull),
      submitError_eq]

open Sys2Proof Sys2Proof.Machine in
/-- Settles O33, by induction on the moves. -/
theorem engineWaitsUntilAllComplete : Obligations.EngineWaitsUntilAllComplete := by
  intro s x moves rest hinv ⟨hfsm, hpc, _, _⟩ hmax hx hpending hmoves hbox
  have hwait : AwaitsTransfer x s := ⟨hfsm, hpc, hinv.opening_eq_none (by simp [hfsm]), hmax, hx, hpending⟩
  obtain ⟨t, hrun, ht, htbox, htrace⟩ := hwait.runSteps hmoves hbox
  exact ⟨t, hrun, ht.fsm, ht.pc, htbox, htrace⟩
end

section
/-! PROOF. The transitions of `FSM` (R160): every line of the engine takes one of them under its condition, or none. -/

namespace Sys2Proof.Machine

/-- `FsmStep` reads no input and no draw. -/
theorem FsmStep.afterInput {s t : State} {i : List Input} {d : Nat}
    (h : FsmStep { s with inbox := i, draws := d } t) : FsmStep s t :=
  ⟨h.legal, h.submitted, h.confirmed, h.failing, h.latching, h.unlatched, h.result, h.failedResult⟩

/-- A step that leaves `FSM`. -/
theorem FsmStep.same {s t : State} (h : t.fsm = s.fsm) : FsmStep s t := by
  constructor
  case legal => exact .inl h
  case result =>
    rintro (hs | hs) ht
    all_goals simp [h, hs] at ht
  all_goals simp_all

theorem Goes.fsmStep {s : State} {f : Fsm} {p : EngineLine} {r : OpResult} (h : Goes s f p r) (hs : FlightOk s)
    (hp : pcFits s.fsm s.pc = true) : FsmStep s { s with fsm := f, pc := p, res := r } := by
  cases h with
  | s1 | noWait | w2 | unlatched | decoded | c2 => exact .same rfl
  | s3 hpc last =>
    have hf := pcFits_submitting hp (.inr hpc)
    have hcond : s.subIdx = s.n ∨ s.failed = true := by
      by_cases hc : s.failed = true
      · exact .inr hc
      · exact .inl (le_antisymm hs.counts.1 (not_lt.mp fun hlt => last ⟨hlt, by simpa using hc⟩))
    constructor <;> simp [hf, fsmMay, hcond]
  | failing hpc failed =>
    have hf := pcFits_awaiting hp (by simp [hpc])
    constructor <;> simp [hf, fsmMay, failed]
  | confirmed hpc clean =>
    have hf := pcFits_awaiting hp (by simp [hpc])
    constructor <;> simp [hf, fsmMay, clean]
  | latching hpc asked =>
    have hf := pcFits_confirmed hp hpc
    constructor <;> simp [hf, fsmMay, asked]

/-- Lines C3 and F1 end the operation (R143, R160). -/
theorem finishOp_fsmStep {s : State} {r : OpResult} (hs : FlightOk s) (hp : pcFits s.fsm s.pc = true)
    (last : s.pc = .c3 ∧ r = s.res ∨ s.pc = .f1 ∧ r = .err s.err) : FsmStep s (finishOp r s) := by
  rcases last with ⟨hpc, rfl⟩ | ⟨hpc, rfl⟩
  · rcases pcFits_ending hp (.inr hpc) with hf | hf
    · have hl := hs.notLatch hf (by simp [hpc])
      constructor <;> simp [hf, fsmMay, hl]
    · constructor <;> simp [hf, fsmMay]
  · have hf : s.fsm = .anyFailed := by cases hf : s.fsm <;> simp_all [pcFits]
    constructor <;> simp [hf, fsmMay]

theorem EngineMove.fsmStep {s t : State} (h : EngineMove s t) (hs : FlightOk s) (hp : pcFits s.fsm s.pc = true) :
    FsmStep s t := by
  cases h with
  | goes f p r next => exact next.fsmStep hs hp
  | ends r last => exact finishOp_fsmStep hs hp last
  | _ => exact .same (by simp)

/-- Admission enters `Submitting` from `Idle` (R160). -/
theorem loadEngine_fsmStep {s : State} (idle : s.fsm = .idle) (m : Mode) (b : Bool) (fs : List Nat) (l : Bool) :
    FsmStep s (loadEngine m b fs l s) := by
  constructor <;> simp [idle, fsmMay]

theorem openStep_fsm {o : Opening} {s t : State} (h : openStep o s = .next t) : t.fsm = s.fsm := by
  rcases openStep_cases h with ⟨r, v, l, rfl, _⟩ | ⟨T, _, _, rfl⟩ | ⟨_, rfl⟩ | ⟨_, rfl⟩ <;> simp

theorem InputMove.fsmStep {x : Option Input} {s t : State} (h : InputMove x s t) (hinv : Inv s)
    (hx : x ≠ some .reset) : FsmStep s t := by
  cases h with
  | reset input => exact absurd input hx
  | admitted m b ws l T fs _ _ idle => exact loadEngine_fsmStep idle m b fs l
  | openLine o _ _ _ line => exact .same (openStep_fsm line)
  | engine _ _ inFlight move => exact move.fsmStep (hinv.flight inFlight) hinv.pc
  | performed => exact .same (by simp)
  | unassigned | codec | refused | beginOpen | rest => exact .same rfl

end Sys2Proof.Machine

open Sys2Proof Sys2Proof.Machine in
/-- Settles O37, by cases on what the input does. -/
theorem fsmFollowsTheRelation : Obligations.FsmFollowsTheRelation := by
  intro s t hinv hx h
  obtain ⟨i, d, hmove⟩ := inputMove_of_step h
  exact (hmove.fsmStep (hinv.afterInput i d) hx).afterInput
end

section
/-! PROOF. Which steps make a latch pulse and which a `Ret` (R124, R143, R149). -/

namespace Sys2Proof.Machine

/-- A line call adds its own event, or none where the role is unassigned (R45, R128). -/
theorem setLine_adds (p : Pins) (r : CtlLine) (v : Level) (s : State) :
    ∃ es, (setLine p r v s).2.trace = s.trace ++ es ∧ ∀ e ∈ es, isLatchPulse e = false ∧ isRet e = false := by
  cases h : p.ctl r with
  | none => exact ⟨[], by simp [setLine_unassigned h], nofun⟩
  | some l => exact ⟨_, (setLine_assigned (by simp [h]) v s).1, by simp [isLatchPulse, isRet]⟩

/-- The same of a pulse (R46). -/
theorem pulseLine_adds (p : Pins) (r : CtlLine) (d : Nat) (s : State) :
    ∃ es, (pulseLine p r d s).2.trace = s.trace ++ es ∧
      ∀ e ∈ es, (isLatchPulse e = true → r = .latch) ∧ isRet e = false := by
  cases h : p.ctl r with
  | none => exact ⟨[], by simp [pulseLine_unassigned h], nofun⟩
  | some l =>
    refine ⟨_, (pulseLine_assigned (by simp [h]) d s).1, ?_⟩
    cases r <;> simp [isLatchPulse, isRet]

/-- What a line of the engine adds to the trace: a latch pulse from `Latching`'s line alone, and a `Ret` at the end
alone (R143). -/
theorem EngineMove.adds {s t : State} (h : EngineMove s t) : ∃ es, t.trace = s.trace ++ es ∧
    (s.pc ≠ .latch → ∀ e ∈ es, isLatchPulse e = false) ∧ (t.fsm ≠ .idle → ∀ e ∈ es, isRet e = false) := by
  cases h with
  | goes => exact ⟨[], (List.append_nil _).symm, nofun, nofun⟩
  | calls v =>
    obtain ⟨es, htrace, hes⟩ := setLine_adds s.cfg.pins .sync v s
    exact ⟨es, by simpa using htrace, fun _ e he => (hes e he).1, fun _ e he => (hes e he).2⟩
  | idles r v =>
    obtain ⟨es, htrace, hes⟩ := setLine_adds s.cfg.pins r v s
    exact ⟨es, htrace, fun _ e he => (hes e he).1, fun _ e he => (hes e he).2⟩
  | queueFull => exact ⟨[.subFull], by simp, by simp [isLatchPulse], by simp [isRet]⟩
  | submits => exact ⟨[.sub _ _ _], rfl, by simp [isLatchPulse], by simp [isRet]⟩
  | awaited cs =>
    exact ⟨[.await (awaitedIds s) (awaitAnswer cs)], by simp, by simp [isLatchPulse], by simp [isRet]⟩
  | expires a => exact ⟨[.await (awaitedIds s) a], by simp, by simp [isLatchPulse], by simp [isRet]⟩
  | pulsed T hpc =>
    obtain ⟨es, htrace, hes⟩ := pulseLine_adds s.cfg.pins .latch T.tLatchHoldMin s
    exact ⟨es, htrace, fun hl => absurd hpc hl, fun _ e he => (hes e he).2⟩
  | pulseFailed T hpc =>
    obtain ⟨es, htrace, hes⟩ := pulseLine_adds s.cfg.pins .latch T.tLatchHoldMin s
    exact ⟨es, by simpa [latchPulse] using htrace, fun hl => absurd hpc hl, fun _ e he => (hes e he).2⟩
  | ends r => exact ⟨[.ret (opInFlight s) r], rfl, by simp [isLatchPulse], fun ht => absurd rfl ht⟩

/-- Added events without a latch pulse leave their number (R130). -/
theorem latchPulses_of_adds {s t : State} {es : List Event} (trace : t.trace = s.trace ++ es)
    (h : ∀ e ∈ es, isLatchPulse e = false) : latchPulses t.trace = latchPulses s.trace := by
  have hnone : latchPulses es = 0 := List.countP_eq_zero.mpr fun e he => by simp [h e he]
  rw [trace, latchPulses_append, hnone, Nat.add_zero]

/-- OPEN pulses RESET and never the latch (R180, R183). -/
theorem openStep_latchPulses {o : Opening} {s t : State} (h : openStep o s = .next t) :
    latchPulses t.trace = latchPulses s.trace := by
  rcases openStep_cases h with ⟨r, v, l, rfl, _⟩ | ⟨T, _, _, rfl⟩ | ⟨_, rfl⟩ | ⟨_, rfl⟩
  · obtain ⟨es, htrace, hes⟩ := setLine_adds o.cfg.pins r v s
    exact latchPulses_of_adds htrace fun e he => (hes e he).1
  · rcases openPulse_cases T o.cfg.pins s with e | e
    · simp [e]
    · obtain ⟨es, htrace, hes⟩ := pulseLine_adds o.cfg.pins .reset T.tResetLowMin s
      exact latchPulses_of_adds (by simpa [e] using htrace) fun e he =>
        Bool.eq_false_iff.mpr fun hl => absurd ((hes e he).1 hl) nofun
  · exact latchPulses_ret _ _ _
  · exact latchPulses_ret _ _ _

/-- A step changes the number of latch pulses from the line of the pulse alone, which it leaves (R149). -/
theorem InputMove.at_latch {x : Option Input} {s t : State} (h : InputMove x s t)
    (hne : latchPulses t.trace ≠ latchPulses s.trace) : s.fsm ≠ .idle ∧ s.pc = .latch ∧ t.pc = .c2 := by
  cases h with
  | refused op e => exact absurd (latchPulses_ret _ op (.err e)) hne
  | openLine o _ _ _ line => exact absurd (openStep_latchPulses line) hne
  | engine _ _ inFlight move =>
    have hpc : s.pc = .latch := by
      by_contra hpc
      obtain ⟨es, htrace, hlatch, _⟩ := move.adds
      exact hne (latchPulses_of_adds htrace (hlatch hpc))
    exact ⟨inFlight, hpc, move.pc_of_latch hpc⟩
  | performed id ok rx =>
    rcases perform_cases id ok rx s with e | ⟨y, _, _, e⟩ <;> rw [e] at hne
    · exact absurd rfl hne
    · exact absurd (latchPulses_append s.trace [.perf id ok]) hne
  | reset | unassigned | codec | beginOpen | admitted | rest => exact absurd rfl hne

/-- The pulse on an assigned LATCH, whatever the driver answers (R124, R127, R149). -/
theorem stepLatch_assigned {s : State} (T : FamilyTable) (latch : (s.cfg.pins.ctl .latch).isSome = true)
    (clean : s.failed = false) (hres : s.res = .ok) : ∃ ok,
      (stepLatch T s).trace = s.trace ++ [.pulse .latch T.tLatchHoldMin ok] ∧
      (stepLatch T s).res = (if ok then .ok else .err .lineSequencingFailed) ∧
      (stepLatch T s).failed = (!ok) ∧ (stepLatch T s).err = if ok then s.err else .lineSequencingFailed := by
  have htrace := (pulseLine_assigned latch T.tLatchHoldMin s).1
  refine ⟨(pulseLine s.cfg.pins .latch T.tLatchHoldMin s).1, ?_⟩
  cases hok : (pulseLine s.cfg.pins .latch T.tLatchHoldMin s).1 <;> rw [hok] at htrace <;>
    simp [stepLatch, latchPulse, hok, htrace, recordError_eq, clean, hres]

/-- On an unassigned LATCH the line makes no event (R128). -/
theorem stepLatch_unassigned {s : State} (T : FamilyTable) (latch : s.cfg.pins.ctl .latch = none) :
    stepLatch T s = { s with pc := .c2 } := by
  simp [stepLatch, latchPulse, pulseLine_unassigned latch]

end Sys2Proof.Machine

open Sys2Proof Sys2Proof.Machine in
/-- Settles O38: a step that adds a latch pulse is the line of the pulse, on an assigned LATCH. -/
theorem latchPulsedOnlyInLatching : Obligations.LatchPulsedOnlyInLatching := by
  intro s t hinv h hne
  obtain ⟨_, _, hmove⟩ := inputMove_of_step h
  obtain ⟨hs, hpc, htc⟩ := hmove.at_latch hne
  obtain ⟨hfsm, clean, _, asked, hres⟩ := complete_of_latch (hinv.flight hs) hinv.pc hpc
  obtain ⟨i, d, T, hT, rfl⟩ := stepLatch_of_step hinv h hs hpc htc
  refine ⟨hfsm, hpc, asked, clean, htc, T, ?_⟩
  cases latch : s.cfg.pins.ctl .latch with
  | none =>
    rw [stepLatch_unassigned (s := { s with inbox := i, draws := d }) T latch] at hne
    exact absurd rfl hne
  | some l =>
    obtain ⟨ok, hpulse⟩ := stepLatch_assigned (s := { s with inbox := i, draws := d }) T
      (Option.isSome_iff_exists.mpr ⟨l, latch⟩) clean hres
    exact ⟨ok, hT, hpulse⟩
end

section
/-! PROOF. What the trace of an operation is when it ends (R161 to R163). -/

namespace Sys2Proof.Machine

/-- At line C3 no step before the latch pulse has failed, and all frames are submitted (R143, R149). -/
theorem confirmed_of_c3 {s : State} (hs : FlightOk s) (hp : pcFits s.fsm s.pc = true) (hpc : s.pc = .c3) :
    confirmedSoFar s ∧ s.subIdx = s.n := by
  have hfsm := pcFits_ending hp (.inr hpc)
  have hc : confirmedSoFar s := hfsm.imp (fun hf => hs.confirmed (.inl hf)) id
  exact ⟨hc, hs.complete (by rcases hfsm with hf | hf <;> simp [hf]) hc⟩

/-- The projections of the trace that a `Ret` leaves (R161, R162). -/
theorem ret_projections (tr : List Event) (op : HostOp) (r : OpResult) :
    subFrames (tr ++ [.ret op r]) = subFrames tr ∧ subIds (tr ++ [.ret op r]) = subIds tr ∧
      (tr ++ [Event.ret op r]).filter isEngineEvent = tr.filter isEngineEvent := by
  simp [subFrames, subIds, List.filter_append, isEngineEvent]

/-- How an operation that ends with `Ok` ends: from line C3, confirmed and complete, by its `Ret` (R143). -/
structure EndsOk (s t : State) : Prop where
  pc        : s.pc = .c3
  res       : s.res = .ok
  confirmed : confirmedSoFar s
  complete  : s.subIdx = s.n
  trace     : t.trace = s.trace ++ [.ret (opInFlight s) .ok]
  events    : opEvents t = opEvents s ++ [.ret (opInFlight s) .ok]

theorem OpEnds.endsOk {s t : State} (h : OpEnds s t) (hinv : Inv s) (hop : FlightTrace s) (ok : t.result = .ok) :
    EndsOk s t := by
  have hs := hinv.flight h.inFlight
  obtain ⟨i, d, r, rfl, last⟩ := h.finishes hinv
  obtain rfl : r = .ok := ok
  obtain ⟨hpc, hres⟩ : s.pc = .c3 ∧ .ok = s.res := last.resolve_right fun hf => absurd hf.2 nofun
  obtain ⟨hc, hn⟩ := confirmed_of_c3 hs hinv.pc hpc
  exact ⟨hpc, hres.symm, hc, hn, rfl, opEvents_finishOp (s := { s with inbox := i, draws := d }) hop.start .ok⟩

/-- R143's list for a batch that has pulsed an assigned latch with success (R162). -/
theorem expectedEvents_latched {T : FamilyTable} {s : State} (batch : s.mode = .pipelined) (hf : s.fsm = .latching)
    (hpc : s.pc = .c3) (hres : s.res = .ok) (hn : s.subIdx = s.n) (latch : s.cfg.pins.latch ≠ none) :
    expectedEvents T s = List.zipWith (fun id f => Event.sub id f T.W) (s.ids.take s.n) (s.frame.take s.n) ++
      (if s.n = 0 then [] else [.await (s.ids.take s.n) .ok]) ++ [.pulse .latch T.tLatchHoldMin true] := by
  simp [expectedEvents, batch, hf, hpc, hres, hn, awaitedIds, pastW1, Option.isSome_iff_ne_none.mpr latch]

/-- The transfers of a confirmed operation were performed before its wait returned, each once (R55, R61, R161). -/
theorem FlightTrace.performed_once {s : State} (h : FlightTrace s) (hperf : PerfInv s) (hc : confirmedSoFar s)
    (hp : pastW1 s.pc = true) (hn : s.subIdx ≠ 0) :
    ∃ before after, s.trace = before ++ .await (awaitedIds s) .ok :: after ∧
      ∀ id ∈ awaitedIds s, .perf id true ∈ before ∧ perfCount id s.trace = 1 := by
  obtain ⟨before, after, htrace, hall⟩ := h.performed hc hp hn
  refine ⟨before, after, htrace, fun id hid => ⟨hall id hid, le_antisymm (hperf.once id) ?_⟩⟩
  have hmem : .perf id true ∈ s.trace := htrace ▸ List.mem_append_left _ (hall id hid)
  exact List.countP_pos_iff.mpr ⟨_, hmem, by simp [isPerfOf]⟩

/-- A `Ret` is no performance. -/
theorem perfCount_ret (id : Nat) (tr : List Event) (op : HostOp) (r : OpResult) :
    perfCount id (tr ++ [.ret op r]) = perfCount id tr :=
  perfCount_append id tr _

/-- The first `N` slots of what admission has loaded are the frames (R142 A6). -/
theorem loadEngine_take_frame (m : Mode) (b : Bool) (fs : List Nat) (l : Bool) (s : State) :
    (loadEngine m b fs l s).frame.take (loadEngine m b fs l s).n = fs :=
  List.take_left

/-- A batch admitted has filled `FRAME` with the encoding of each of its words (R161). -/
theorem execWriteBatch_frames {s t : State} {T : FamilyTable} {ws : List RegisterWord} {l : Bool} (hs : s.fsm = .idle)
    (hT : sessionTable? s = some T) (h : exec (.hostWriteBatch ws l) s = .next t) (ht : t.fsm = .submitting) :
    ws.map (encodeValue T) = (t.frame.take t.n).map .ok := by
  have h : admission .writeBatchOp .pipelined false ws l s = .next t := h
  rcases admission_cases h with ⟨e, _, rfl⟩ | ⟨T', fs, _, _, hT', _, _, hfs, rfl⟩
  · exact absurd (hs.symm.trans ht) nofun
  · obtain rfl : T = T' := Option.some.inj (hT.symm.trans hT')
    rw [loadEngine_take_frame]
    exact encodeAll_eq_ok_iff.mp hfs

theorem openStep_keepsFrames {o : Opening} {s t : State} (h : openStep o s = .next t) :
    t.frame = s.frame ∧ t.n = s.n := by
  rcases openStep_cases h with ⟨r, v, l, rfl, _⟩ | ⟨T, _, _, rfl⟩ | ⟨_, rfl⟩ | ⟨_, rfl⟩ <;> simp

/-- An operation in flight keeps its frames (R13, R161). -/
theorem InputMove.keepsFrames {x : Option Input} {s t : State} (h : InputMove x s t) (hs : s.fsm ≠ .idle)
    (ht : t.fsm ≠ .idle) : t.frame = s.frame ∧ t.n = s.n := by
  cases h with
  | reset => exact absurd rfl ht
  | admitted _ _ _ _ _ _ _ _ idle => exact absurd idle hs
  | openLine o _ _ _ line => exact openStep_keepsFrames line
  | engine _ _ _ move => exact ⟨move.sameOperation.frame, move.sameOperation.n⟩
  | performed => exact ⟨by simp, by simp⟩
  | unassigned | codec | refused | beginOpen | rest => exact ⟨rfl, rfl⟩

end Sys2Proof.Machine

open Sys2Proof Sys2Proof.Machine in
/-- Settles O41: outside `Latching` there is no pulse in the operation's trace, and the `Ret` adds none. -/
theorem failedOperationIsNeverLatched : Obligations.FailedOperationIsNeverLatched := by
  intro s t e hinv hop hend _ hl
  have htrace := hop hend.inFlight
  obtain ⟨i, d, r, rfl, _⟩ := hend.finishes hinv
  have hev : opEvents (finishOp r { s with inbox := i, draws := d }) = opEvents s ++ [.ret (opInFlight s) r] :=
    opEvents_finishOp (s := { s with inbox := i, draws := d }) htrace.start r
  rw [hev, latchPulses_ret]
  exact htrace.latchPulses_eq_zero (hinv.table (hinv.flight hend.inFlight).session) hl

open Sys2Proof Sys2Proof.Machine in
/-- Settles O42: the operation ends from `Latching`, and its events are R143's list. -/
theorem latchFollowsTheLastCompletion : Obligations.LatchFollowsTheLastCompletion := by
  intro s t T hinv hop hend hT batch asked ok latch
  have hfl := hinv.flight hend.inFlight
  have htrace := hop hend.inFlight
  have hok := hend.endsOk hinv htrace ok
  have hf : s.fsm = .latching := (latching_iff_of_ending hfl hinv.pc (.inl hok.pc)).mpr ⟨asked, hok.confirmed⟩
  have hret : opInFlight s = .writeBatchOp := by simp [opInFlight, batch]
  refine ⟨?_, hret ▸ hok.trace, ?_⟩
  · rw [hok.events, latchPulses_ret]
    exact (latchPulses_of_ending hinv htrace hend.inFlight (.inl hok.pc)).2.mpr ⟨asked, latch, hok.confirmed⟩
  · rw [engineEvents, hok.events, (ret_projections _ _ _).2.2]
    exact (htrace.success hok.confirmed T hT).trans (expectedEvents_latched batch hf hok.pc hok.res hok.complete latch)

open Sys2Proof Sys2Proof.Machine in
/-- Settles O43: a confirmed operation by the invariants of its trace, what admission has loaded, and what the steps
keep. -/
theorem deliveryLaw : Obligations.DeliveryLaw := by
  refine ⟨fun s t hinv hop hperf hend _ ok => ?_, fun s t T ws l hs hT h ht => execWriteBatch_frames hs hT h ht,
    fun s t h hs ht => ?_⟩
  · have htrace := hop hend.inFlight
    have hok := hend.endsOk hinv htrace ok
    have hids : awaitedIds s = s.ids.take s.n := by rw [awaitedIds, hok.complete]
    obtain ⟨hframes, htransfers, _⟩ := ret_projections (opEvents s) (opInFlight s) .ok
    rw [hok.events, hframes, htransfers]
    refine ⟨hok.complete ▸ htrace.frames, hids ▸ htrace.transfers, fun hn => ?_⟩
    obtain ⟨before, after, hawait, hall⟩ :=
      htrace.performed_once hperf hok.confirmed (by rw [hok.pc]; rfl) (hok.complete ▸ hn)
    refine ⟨before, after ++ [.ret (opInFlight s) .ok], by simp [hok.trace, hawait, hids], fun id hid => ?_⟩
    rw [hok.trace, perfCount_ret]
    exact hall id (hids ▸ hid)
  · obtain ⟨i, d, hmove⟩ := inputMove_of_step h
    exact hmove.keepsFrames hs ht
end

section
/-! PROOF. A batch without words (R150): its lines before the end of a confirmed operation. -/

namespace Sys2Proof.Machine

/-- A session and an OPEN in progress exclude each other (R180 O1). -/
theorem Inv.opening_eq_none_of_session {s : State} (h : Inv s) (hv : s.sessionValid = true) : s.opening = none := by
  rw [Option.eq_none_iff_forall_ne_some]
  intro o ho
  simpa [hv] using (h.opening o ho).noSession

/-- Line W1 where nothing was submitted (R143 W1, R150). -/
theorem engineStep_w1_empty {s : State} (hs : s.fsm ≠ .idle) (hpc : s.pc = .w1) (empty : s.subIdx = 0) :
    engineStep s = .next { s with pc := .w2 } := by
  simp [engineStep, hs, hpc, stepW1, empty]

/-- A batch without words goes from its admission to line W3 and makes no event (R150). -/
theorem runSteps_emptyBatch {s : State} {rest : List Input} (hs : s.fsm ≠ .idle) (ho : s.opening = none)
    (batch : s.mode = .pipelined) (hpc : s.pc = .s1) (empty : s.subIdx = 0) (hn : s.n = 0)
    (hbox : s.inbox = runs 4 ++ rest) :
    runSteps 4 s = .next { s with inbox := rest, fsm := .awaitingCompletion, pc := .w3 } :=
  runSteps_engine hbox ho (engineStep_s1_pipelined (s := { s with inbox := runs 3 ++ rest }) hs hpc batch) <|
  runSteps_engine rfl ho (engineStep_s2_leaves hs rfl (empty.trans hn.symm)) <|
  runSteps_engine rfl ho (engineStep_w1_empty nofun rfl empty) <|
  runSteps_engine rfl ho (engineStep_w2_pipelined nofun rfl batch) (runSteps_zero _)

end Sys2Proof.Machine

open Sys2Proof Sys2Proof.Machine in
/-- Settles O48: the batch is admitted, goes to W3 without an event, and ends as a confirmed operation does. -/
theorem emptyBatchOnlyLatches : Obligations.EmptyBatchOnlyLatches := by
  intro s T l answers rest hinv hv hs hT hans hbox pulsed
  have ho := hinv.opening_eq_none_of_session hv
  have hport := step_writeBatch_admits (ws := []) (fs := []) hv hs hT (Nat.zero_le _) rfl rfl hbox
  have hsplit : runs (if l then 9 else 8) ++ rest = runs 4 ++ (runs (if l then 5 else 4) ++ rest) := by
    cases l <;> rfl
  have hlines := runSteps_emptyBatch (rest := runs (if l then 5 else 4) ++ rest)
    (s := loadEngine .pipelined false [] l { s with inbox := runs (if l then 9 else 8) ++ rest })
    nofun ho rfl rfl rfl rfl hsplit
  have hend := runSteps_confirmed (T := T) (rest := rest) (answers := answers)
    (s := { loadEngine .pipelined false [] l { s with inbox := runs (if l then 9 else 8) ++ rest } with
      inbox := runs (if l then 5 else 4) ++ rest, fsm := .awaitingCompletion, pc := .w3 })
    nofun ho rfl hT rfl rfl hans rfl
  have hrun := runSteps_trans (runSteps_one hport) (runSteps_trans hlines hend)
  have hsteps : 1 + (4 + if l then 5 else 4) = if l then 10 else 9 := by cases l <;> rfl
  change runSteps (1 + (4 + if l then 5 else 4)) s = _ at hrun
  rw [hsteps] at hrun
  exact ⟨_, hrun, by rfl, rfl, rfl, rfl, rfl, rfl, by rfl⟩
end

section
/-! PROOF. The transfer of a WRITE or a READ (R58): its submission, its performance and the return of the wait for it,
between the two calls of SYNC. -/

namespace Sys2Proof.Machine

/-! ### The transport -/

/-- The completion of the fresh transfer, of `n` bits (R42, R61). -/
def freshCompletion (t : Transport) (ok : Bool) (n rx : Nat) : Completion :=
  ⟨t.nextId, ok, frameBytes n (rx % 2 ^ n)⟩

/-- The transport after the fresh transfer has been submitted and performed: what it held, and its completion (R42,
R61). -/
def afterTransfer (t : Transport) (c : Completion) : Transport :=
  { t with completions := t.completions ++ [c], nextId := t.nextId + 1 }

section

variable {t : Transport} (h : TransportOk t)
include h

theorem TransportOk.outstanding_ne_nextId {x : Transfer} (hx : x ∈ t.outstanding) : x.id ≠ t.nextId :=
  (h.older x.id (List.mem_append_left _ (List.mem_map_of_mem hx))).ne

theorem TransportOk.completion_ne_nextId {c : Completion} (hc : c ∈ t.completions) : c.id ≠ t.nextId :=
  (h.older c.id (List.mem_append_right _ (List.mem_map_of_mem hc))).ne

/-- The performance of the transfer just submitted (R61). -/
theorem TransportOk.perform_enqueued {s : State} {hd f n : Nat} (hs : s.transport = Machine.enqueue t hd f n)
    (ok : Bool) (rx : Nat) : perform t.nextId ok rx s = { s with
      transport := afterTransfer t (freshCompletion t ok n rx)
      trace := s.trace ++ [.perf t.nextId ok] } := by
  have hfind : t.outstanding.find? (fun x => x.id == t.nextId) = none :=
    List.find?_eq_none.mpr fun x hx => by simpa using h.outstanding_ne_nextId hx
  have hkeep : t.outstanding.filter (fun x => !(x.id == t.nextId)) = t.outstanding :=
    List.filter_eq_self.mpr fun x hx => by simpa using h.outstanding_ne_nextId hx
  simp [perform, hs, Machine.enqueue, List.find?_append, hfind, Machine.completeTransfer, List.filter_append, hkeep,
    afterTransfer, freshCompletion, emit]

variable {c : Completion} (hc : c.id = t.nextId)
include hc

/-- The wait for it can return. -/
theorem TransportOk.completionsOf?_afterTransfer : completionsOf? (afterTransfer t c) [t.nextId] = some [c] := by
  have hfind : t.completions.find? (fun x => x.id == t.nextId) = none :=
    List.find?_eq_none.mpr fun x hx => by simpa using h.completion_ne_nextId hx
  simp [completionsOf?, completionOf?, afterTransfer, List.find?_append, hfind, hc]

/-- Its return clears the one completion (R208). -/
theorem TransportOk.clearCompletions_afterTransfer :
    Machine.clearCompletions (afterTransfer t c) [t.nextId] = { t with nextId := t.nextId + 1 } := by
  simpa [Machine.clearCompletions, afterTransfer, List.filter_append, hc] using
    fun _ => h.completion_ne_nextId

end

/-! ### The lines -/

section

variable {s : State} {answers : List Bool} (hs : s.fsm ≠ .idle) (listed : s.lineAnswers = true :: answers)
  (direct : s.mode = .direct) (clean : s.failed = false) (sync : (s.cfg.pins.ctl .sync).isSome = true)
include hs listed direct clean sync

/-- SYNC_ASSERT where the driver answers with success (R122). -/
theorem engineStep_s1_asserts (hpc : s.pc = .s1) : engineStep s = .next { s with
    pc := .s2, lineAnswers := answers, lineSync := .known .low, trace := s.trace ++ [.line .sync .low true] } := by
  rw [engineStep_s1_direct hs listed hpc direct sync]
  simp [clean, lineAfter]

/-- SYNC_DEASSERT where the driver answers with success (R123). -/
theorem engineStep_w2_deasserts (hpc : s.pc = .w2) : engineStep s = .next { s with
    pc := .w3, lineAnswers := answers, lineSync := .known .high, trace := s.trace ++ [.line .sync .high true] } := by
  rw [engineStep_w2_direct hs listed hpc direct sync]
  simp [clean, lineAfter]

end

/-- Line W1 with one successful transfer, whose bytes a READ takes (R143 W1, R156). -/
theorem engineStep_w1_one {s : State} {ids : List Nat} {c : Completion} (hs : s.fsm ≠ .idle) (hpc : s.pc = .w1)
    (hn : s.subIdx ≠ 0) (hids : awaitedIds s = ids) (hcs : completionsOf? s.transport ids = some [c])
    (ok : c.ok = true) : engineStep s = .next { s with
      pc := .w2, transport := clearCompletions s.transport ids, rx := if s.rdback then c.rx else s.rx
      trace := s.trace ++ [.await ids .ok] } := by
  have hanswer : awaitAnswer [c] = .ok := by simp [awaitAnswer, ok]
  rw [engineStep_w1 hs hpc, stepW1_of_complete hn (hids ▸ hcs), hanswer, takeRx_awaitReturns_ok, hids]

/-- The performance of the one transfer waited for, the return of the wait and SYNC high again (R58), with the sampled
bytes in `RX` for a READ (R156). -/
theorem runSteps_performed {t : Transport} {u : State} {hd f n rx : Nat} {answers : List Bool} {rest : List Input}
    (ht : TransportOk t) (hu : u.fsm ≠ .idle) (ho : u.opening = none) (listed : u.lineAnswers = true :: answers)
    (direct : u.mode = .direct) (clean : u.failed = false) (sync : (u.cfg.pins.ctl .sync).isSome = true)
    (hpc : u.pc = .w1) (hsub : u.subIdx = 1) (hids : u.ids.take 1 = [t.nextId])
    (htransport : u.transport = enqueue t hd f n)
    (hbox : u.inbox = .move (.perf t.nextId true rx) :: (runs 2 ++ rest)) :
    runSteps 3 u = .next { u with
      inbox := rest, lineAnswers := answers, lineSync := .known .high, pc := .w3
      transport := { t with nextId := t.nextId + 1 }
      rx := if u.rdback then frameBytes n (rx % 2 ^ n) else u.rx
      trace := u.trace ++ [.perf t.nextId true] ++ [.await [t.nextId] .ok] ++ [.line .sync .high true] } := by
  have hperf := ht.perform_enqueued (s := { u with inbox := runs 2 ++ rest }) htransport true rx
  have hstep := (step_move hbox).trans (congrArg Host.Outcome.next hperf)
  refine (runSteps_next hstep).trans ?_
  have hawaited : awaitedIds u = [t.nextId] := by rw [awaitedIds, hsub, hids]
  have hw1 := engineStep_w1_one (c := freshCompletion t true n rx)
    (s := { u with
      inbox := runs 1 ++ rest, transport := afterTransfer t (freshCompletion t true n rx)
      trace := u.trace ++ [.perf t.nextId true] })
    hu hpc (by simp [hsub]) hawaited (ht.completionsOf?_afterTransfer rfl) rfl
  rw [ht.clearCompletions_afterTransfer rfl] at hw1
  exact runSteps_engine rfl ho hw1 <|
    runSteps_engine rfl ho (engineStep_w2_deasserts hu listed direct clean sync rfl) (runSteps_zero _)

/-- A Direct-mode operation with one frame, just admitted in a session whose queue has room. -/
structure DirectLoaded (T : FamilyTable) (f : Nat) (s : State) : Prop where
  fsm       : s.fsm = .submitting
  pc        : s.pc = .s1
  opening   : s.opening = none
  mode      : s.mode = .direct
  one       : s.n = 1
  start     : s.subIdx = 0
  clean     : s.failed = false
  table     : sessionTable? s = some T
  slot      : s.frame[0]? = some f
  ids       : 0 < s.ids.length
  sync      : (s.cfg.pins.ctl .sync).isSome = true
  room      : queueFull s.transport s.cfg.handle = false
  transport : TransportOk s.transport

section

variable {T : FamilyTable} {f rx : Nat} {s : State} {answers : List Bool} {rest : List Input} (h : DirectLoaded T f s)
include h

/-- Lines S1 to S3: SYNC low and the submission (R58). -/
theorem DirectLoaded.submits (listed : s.lineAnswers = true :: answers) (hbox : s.inbox = runs 3 ++ rest) :
    runSteps 3 s = .next { s with
      inbox := rest, lineAnswers := answers, lineSync := .known .low, fsm := .awaitingCompletion, pc := .w1
      transport := enqueue s.transport s.cfg.handle f T.W, ids := s.ids.set 0 s.transport.nextId, subIdx := 1
      trace := s.trace ++ [.line .sync .low true] ++ [.sub s.transport.nextId f T.W] } := by
  have hs : s.fsm ≠ .idle := by simp [h.fsm]
  have hs1 := engineStep_s1_asserts (s := { s with inbox := runs 2 ++ rest }) hs listed h.mode h.clean h.sync h.pc
  refine runSteps_engine hbox h.opening hs1 ?_
  have hs2 := engineStep_s2_submits (T := T) (f := f)
    (s := { s with
      inbox := runs 1 ++ rest, pc := .s2, lineAnswers := answers, lineSync := .known .low
      trace := s.trace ++ [.line .sync .low true] })
    hs rfl (by simp [h.start, h.one]) h.clean h.table (by simpa [h.start] using h.slot) h.room
  refine runSteps_engine rfl h.opening hs2 ?_
  simp only [h.start, Nat.zero_add]
  exact runSteps_engine rfl h.opening (engineStep_s2_leaves hs rfl h.one.symm) (runSteps_zero _)

/-- The one transfer waited for. -/
theorem DirectLoaded.take_ids : (s.ids.set 0 s.transport.nextId).take 1 = [s.transport.nextId] := by
  have := h.ids
  cases hids : s.ids with
  | nil => simp [hids] at this
  | cons id ids => rfl

/-- The whole transfer, whose performance falls after its submission: the events of R58 in their order, SYNC high again,
and the sampled bytes in `RX` for a READ (R156). -/
theorem DirectLoaded.transfers (listed : s.lineAnswers = true :: true :: answers)
    (hbox : s.inbox = runs 3 ++ .move (.perf s.transport.nextId true rx) :: (runs 2 ++ rest)) :
    runSteps 6 s = .next { s with
      inbox := rest, lineAnswers := answers, lineSync := .known .high, fsm := .awaitingCompletion, pc := .w3
      transport := { s.transport with nextId := s.transport.nextId + 1 }
      ids := s.ids.set 0 s.transport.nextId, subIdx := 1
      rx := if s.rdback then frameBytes T.W (rx % 2 ^ T.W) else s.rx
      trace := s.trace ++ [.line .sync .low true, .sub s.transport.nextId f T.W, .perf s.transport.nextId true,
        .await [s.transport.nextId] .ok, .line .sync .high true] } := by
  have hperf := runSteps_performed h.transport nofun h.opening (hd := s.cfg.handle) (f := f) (n := T.W) (rx := rx)
    (u := { s with
      inbox := .move (.perf s.transport.nextId true rx) :: (runs 2 ++ rest), lineAnswers := true :: answers
      lineSync := .known .low, fsm := .awaitingCompletion, pc := .w1
      transport := enqueue s.transport s.cfg.handle f T.W, ids := s.ids.set 0 s.transport.nextId, subIdx := 1
      trace := s.trace ++ [.line .sync .low true] ++ [.sub s.transport.nextId f T.W] })
    rfl h.mode h.clean h.sync rfl rfl h.take_ids rfl rfl
  have hrun := runSteps_trans (h.submits listed hbox) hperf
  simpa using hrun

end

/-- What admission loads for a WRITE or a READ in a session whose queue has room (R142 A6). -/
theorem loadEngine_directLoaded {s : State} {T : FamilyTable} (hinv : Inv s) (hv : s.sessionValid = true)
    (hT : sessionTable? s = some T)
    (hroom : outstandingOf s.transport s.cfg.handle < queueDepth s.transport s.cfg.handle) (b : Bool) (f : Nat)
    (l : Bool) (i : List Input) : DirectLoaded T f (loadEngine .direct b [f] l { s with inbox := i }) where
  fsm := rfl
  pc := rfl
  opening := hinv.opening_eq_none_of_session hv
  mode := rfl
  one := rfl
  start := rfl
  clean := rfl
  table := hT
  slot := rfl
  ids := by
    have := (hinv.session hv).depth
    have := hinv.idsLen
    simp only [loadEngine_ids]
    omega
  sync := hinv.sync_assigned hv
  room := decide_eq_false (not_le.mpr hroom)
  transport := hinv.transport

/-- The presentation of a WRITE is the step that loads it (R85, R140). -/
theorem step_write_admits {s : State} {T : FamilyTable} {w : RegisterWord} {f : Nat} {rest : List Input}
    (hv : s.sessionValid = true) (hs : s.fsm = .idle) (hT : sessionTable? s = some T) (hf : encodeValue T w = .ok f)
    (hwf : w.portWf = true) (hbox : s.inbox = .port (encode (.hostWrite w)) :: rest) :
    step s = .next (loadEngine .direct false [f] s.par.directUpdate { s with inbox := rest }) := by
  rw [step_port hbox, present, decode_encode_hostWrite hwf]
  exact execWrite_admits (s := { s with inbox := rest }) hv hs hT hf

/-- The presentation of a READ, where the family and the pins have a read-back (R85, R155). -/
theorem step_read_admits {s : State} {T : FamilyTable} {w : RegisterWord} {f : Nat} {rest : List Input}
    (hv : s.sessionValid = true) (hs : s.fsm = .idle) (hT : sessionTable? s = some T) (hb : T.bidirectional = true)
    (hd : s.cfg.pins.din ≠ none) (hf : encodeValue T w = .ok f) (hwf : w.portWf = true)
    (hbox : s.inbox = .port (encode (.hostRead w)) :: rest) :
    step s = .next (loadEngine .direct true [f] false { s with inbox := rest }) := by
  rw [step_port hbox, present, decode_encode_hostRead hwf]
  exact execRead_admits (s := { s with inbox := rest }) hv hs hT hb hd hf

/-- Where a WRITE or a READ presented in `s` stands at line W3 after a successful transfer of the frame `f` that sampled
`rx` (R58, R142 A6, R156). -/
def directTransferred (T : FamilyTable) (f rx : Nat) (rdback latchReq : Bool) (answers : List Bool) (rest : List Input)
    (s : State) : State :=
  { s with
    frame := f :: s.frame.drop 1, ids := s.ids.set 0 s.transport.nextId, n := 1, subIdx := 1, failed := false
    latchReq := latchReq, mode := .direct, rdback := rdback, fsm := .awaitingCompletion, pc := .w3
    lineSync := .known .high, lineAnswers := answers, rx := if rdback then frameBytes T.W (rx % 2 ^ T.W) else s.rx
    transport := { s.transport with nextId := s.transport.nextId + 1 }, inbox := rest, opStart := s.trace.length
    trace := s.trace ++ [.line .sync .low true, .sub s.transport.nextId f T.W, .perf s.transport.nextId true,
      .await [s.transport.nextId] .ok, .line .sync .high true] }

/-- A WRITE or a READ from its presentation to line W3 (R58). -/
theorem runSteps_direct {s : State} {T : FamilyTable} {f rx : Nat} {b l : Bool} {answers : List Bool}
    {rest : List Input} (hinv : Inv s) (hv : s.sessionValid = true) (hT : sessionTable? s = some T)
    (hroom : outstandingOf s.transport s.cfg.handle < queueDepth s.transport s.cfg.handle)
    (hans : s.lineAnswers = true :: true :: answers)
    (hport : step s = .next (loadEngine .direct b [f] l { s with
      inbox := runs 3 ++ .move (.perf s.transport.nextId true rx) :: (runs 2 ++ rest) })) :
    runSteps 7 s = .next (directTransferred T f rx b l answers rest s) :=
  runSteps_trans (a := 1) (b := 6) (runSteps_one hport)
    ((loadEngine_directLoaded hinv hv hT hroom b f l _).transfers hans rfl)

/-- Idle, the engine is at no line of R143. -/
theorem Inv.pc_of_idle {s : State} (h : Inv s) (hs : s.fsm = .idle) : s.pc = .idle := by
  have hp := h.pc
  rw [hs] at hp
  cases hpc : s.pc <;> simp_all [pcFits]

/-! ### The end of a READ -/

/-- Line C2 of a READ: DECODE takes the sampled bytes (R143 C2, R156). -/
theorem engineStep_c2_read {s : State} {T : FamilyTable} (hs : s.fsm ≠ .idle) (hpc : s.pc = .c2)
    (hT : sessionTable? s = some T) (read : s.rdback = true) (ok : s.res = .ok) :
    engineStep s = .next { s with res := decodeResult T s.rx, pc := .c3 } := by
  simp [engineStep, hs, hpc, withTable_eq hT, stepC2, read, ok]

/-- The end of a confirmed READ, from line W3 (R143, R156). -/
theorem runSteps_read {s : State} {T : FamilyTable} {rest : List Input} (hs : s.fsm ≠ .idle) (ho : s.opening = none)
    (hT : sessionTable? s = some T) (read : s.rdback = true) (hpc : s.pc = .w3) (clean : s.failed = false)
    (hl : s.latchReq = false) (hbox : s.inbox = runs 4 ++ rest) : runSteps 4 s = .next { s with
      fsm := .idle, pc := .idle, res := decodeResult T s.rx, result := decodeResult T s.rx, inbox := rest
      trace := s.trace ++ [.ret (opInFlight s) (decodeResult T s.rx)] } :=
  runSteps_trans (a := 2) (b := 2) (runSteps_w3_notAsked (k := 2) hs ho hpc clean hl hbox) <|
  runSteps_engine rfl ho (engineStep_c2_read nofun rfl hT read rfl) <|
  runSteps_engine rfl ho (engineStep_c3 nofun rfl) rfl

/-- DECODE answers a word or `MalformedFrame` (R104). -/
theorem decodeResult_cases (T : FamilyTable) (b : List Byte) :
    (∃ v, decodeWord T b = .ok v ∧ decodeResult T b = .okWord v) ∨
    (decodeWord T b = .error .malformedFrame ∧ decodeResult T b = .err .malformedFrame) := by
  unfold decodeResult
  cases h : decodeWord T b with
  | ok v => exact .inl ⟨v, rfl, rfl⟩
  | error e =>
    obtain rfl := decodeWord_error h
    exact .inr ⟨rfl, rfl⟩

end Sys2Proof.Machine

open Sys2Proof Sys2Proof.Machine in
/-- Settles O44: the admission, the transfer and the end of a confirmed operation. -/
theorem directWriteRuns : Obligations.DirectWriteRuns := by
  intro s T w f rx answers rest hinv hv hs hT hwf hf hans hroom id pulsed hbox
  have ho := hinv.opening_eq_none_of_session hv
  have hsplit : runs (if s.par.directUpdate then 7 else 6) ++ rest =
      runs 2 ++ (runs (if s.par.directUpdate then 5 else 4) ++ rest) := by
    cases s.par.directUpdate <;> rfl
  rw [List.cons_append, List.cons_append, List.append_assoc, List.cons_append, hsplit] at hbox
  have htransfer := runSteps_direct hinv hv hT hroom hans (step_write_admits hv hs hT hf hwf hbox)
  have hend := runSteps_confirmed (T := T) (rest := rest) (answers := answers)
    (s := directTransferred T f rx false s.par.directUpdate (true :: answers)
      (runs (if s.par.directUpdate then 5 else 4) ++ rest) s)
    nofun ho rfl hT rfl rfl rfl rfl
  have hrun := runSteps_trans htransfer hend
  have hsteps : 7 + (if s.par.directUpdate then 5 else 4) = if s.par.directUpdate then 12 else 11 := by
    cases s.par.directUpdate <;> rfl
  change runSteps (7 + if s.par.directUpdate then 5 else 4) s = _ at hrun
  rw [hsteps] at hrun
  refine ⟨_, hrun, by rfl, ?_⟩
  simp [directTransferred, hs, hinv.pc_of_idle hs, pulsed, id]

open Sys2Proof Sys2Proof.Machine in
/-- Settles O45: the admission, the transfer and the end of a READ. -/
theorem readReturnsTheDecodedBytes : Obligations.ReadReturnsTheDecodedBytes := by
  intro s T w f rx answers rest hinv hv hs hT hwf hb hd hf hans hrx hroom id hbox
  have ho := hinv.opening_eq_none_of_session hv
  have hsplit : runs 6 ++ rest = runs 2 ++ (runs 4 ++ rest) := rfl
  rw [List.cons_append, List.cons_append, List.append_assoc, List.cons_append, hsplit] at hbox
  have htransfer := runSteps_direct hinv hv hT hroom hans (step_read_admits hv hs hT hb hd hf hwf hbox)
  have hend := runSteps_read (T := T) (rest := rest)
    (s := directTransferred T f rx true false answers (runs 4 ++ rest) s) nofun ho hT rfl rfl rfl rfl rfl
  have hbytes : frameBytes T.W (rx % 2 ^ T.W) = frameBytes T.W rx := by rw [Nat.mod_eq_of_lt hrx]
  refine ⟨_, decodeResult T (frameBytes T.W rx), runSteps_trans (a := 7) (b := 4) htransfer hend,
    decodeResult_cases T _, ?_, ?_, ?_, rfl, rfl, rfl⟩
  · simp [directTransferred, opInFlight, hbytes, id]
  · exact hbytes
  · exact congrArg (decodeResult T) hbytes
end

section
/-! PROOF. The end of an operation whose wait is over (R153, R238): every line comes nearer to it, whatever the driver
answers. -/

namespace Sys2Proof.Machine

/-- How many lines of R143 an operation past its wait has still to go at most: from W2 by way of the latch pulse, and
with an error recorded by way of F1. -/
def linesToEnd (s : State) : Nat :=
  match s.pc with
  | .w2 => 6
  | .w3 => if s.failed then 2 else 5
  | .c1 | .w1Sync => 4
  | .latch | .w1Latch => 3
  | .c2 => 2
  | .c3 | .f1 => 1
  | _ => 0

theorem linesToEnd_le (s : State) : linesToEnd s ≤ 6 := by
  unfold linesToEnd
  split
  case h_2 => split <;> decide
  all_goals decide

theorem linesToEnd_w3_le {s : State} (hpc : s.pc = .w3) : linesToEnd s ≤ 5 := by
  cases hf : s.failed <;> simp [linesToEnd, hpc, hf]

section

variable {s : State} (hs : s.fsm ≠ .idle) (hp : pcFits s.fsm s.pc = true) (hb : beforeAwait s.pc = false)
include hs hp hb

theorem linesToEnd_pos : 0 < linesToEnd s := by
  unfold linesToEnd
  cases hpc : s.pc with
  | idle => cases hf : s.fsm <;> simp_all [pcFits]
  | s1 | s2 | w1 => simp [hpc, beforeAwait] at hb
  | w3 => cases s.failed <;> simp
  | _ => simp

/-- Past the wait the engine never rests (R153, R159). -/
theorem engineMove_of_afterWait {t : State} (h : engineStep s = .next t) : EngineMove s t := by
  unfold engineStep at h
  rw [if_neg hs] at h
  split at h <;> rename_i hpc
  case h_1 => cases hf : s.fsm <;> simp_all [pcFits]
  case h_2 | h_3 | h_4 => simp [hpc, beforeAwait] at hb
  case h_5 => cases h; exact .idles .sync .high .w1Latch (.sync hpc)
  case h_6 => cases h; exact .idles .latch s.par.latchIdle .w3 (.latch hpc)
  case h_7 => cases h; exact stepW2_move hpc
  case h_8 => cases h; exact stepW3_move hpc
  case h_9 => cases h; exact stepC1_move hpc
  case h_10 =>
    obtain ⟨T, _, h⟩ := withTable_next h
    cases h; exact stepLatch_move T hpc
  case h_11 =>
    obtain ⟨T, _, h⟩ := withTable_next h
    cases h; exact stepC2_move T hpc
  case h_12 => cases h; exact .ends s.res (.inl ⟨hpc, rfl⟩)
  case h_13 => cases h; exact .ends (.err s.err) (.inr ⟨hpc, rfl⟩)

end

theorem Goes.comes_nearer {s : State} {f : Fsm} {p : EngineLine} {r : OpResult} (h : Goes s f p r)
    (hb : beforeAwait s.pc = false) : beforeAwait p = false ∧
      linesToEnd { s with fsm := f, pc := p, res := r } < linesToEnd s := by
  cases h with
  | s1 hpc | s3 hpc | noWait hpc => simp [hpc, beforeAwait] at hb
  | w2 hpc =>
    have hw3 := linesToEnd_w3_le (s := { s with pc := .w3 }) rfl
    have hw2 : linesToEnd s = 6 := by simp [linesToEnd, hpc]
    exact ⟨rfl, by rw [hw2]; exact Nat.lt_succ_of_le hw3⟩
  | failing hpc failed => exact ⟨rfl, by simp [linesToEnd, hpc, failed]⟩
  | confirmed hpc clean => exact ⟨rfl, by simp [linesToEnd, hpc, clean]⟩
  | latching hpc | unlatched hpc | decoded _ hpc | c2 hpc => exact ⟨rfl, by simp [linesToEnd, hpc]⟩

/-- A line past the wait that does not end the operation comes nearer to the end. -/
theorem EngineMove.comes_nearer {s t : State} (h : EngineMove s t) (hs : FlightOk s) (hb : beforeAwait s.pc = false)
    (ht : t.fsm ≠ .idle) : beforeAwait t.pc = false ∧ linesToEnd t < linesToEnd s := by
  cases h with
  | goes f p r next => exact next.comes_nearer hb
  | calls v p direct next =>
    cases next with
    | s1 hpc => simp [hpc, beforeAwait] at hb
    | w2 hpc =>
      have hw3 := linesToEnd_w3_le (s := { recordLine (setLine s.cfg.pins .sync .high s) with pc := .w3 }) rfl
      have hw2 : linesToEnd s = 6 := by simp [linesToEnd, hpc]
      exact ⟨rfl, by rw [hw2]; exact Nat.lt_succ_of_le hw3⟩
  | idles r v p next =>
    cases next with
    | sync hpc => exact ⟨rfl, by simp [linesToEnd, hpc]⟩
    | latch hpc => exact ⟨rfl, by simp [linesToEnd, hpc, hs.timedOut (.inr hpc)]⟩
  | queueFull hpc | submits _ _ hpc | awaited _ hpc | expires _ _ hpc => simp [hpc, beforeAwait] at hb
  | pulsed T hpc | pulseFailed T hpc => exact ⟨rfl, by simp [linesToEnd, hpc]⟩
  | ends => exact absurd rfl ht

/-- The engine reads no input. -/
theorem EngineMove.inbox {s t : State} (h : EngineMove s t) : t.inbox = s.inbox := by
  cases h <;> simp

theorem opInFlight_congr {s t : State} (mode : t.mode = s.mode) (rdback : t.rdback = s.rdback) :
    opInFlight t = opInFlight s := by
  rw [opInFlight, opInFlight, mode, rdback]

/-- Past the wait the operation ends within as many moves of the engine as it has lines to go, with its one `Ret`. -/
theorem runSteps_afterWait {rest : List Input} : ∀ {k : Nat} {s : State}, Inv s → s.fsm ≠ .idle →
    beforeAwait s.pc = false → linesToEnd s ≤ k → s.inbox = runs k ++ rest →
    ∃ j t es, j ≤ k ∧ runSteps j s = .next t ∧ t.fsm = .idle ∧
      t.trace = s.trace ++ es ++ [.ret (opInFlight s) t.result] ∧ ∀ e ∈ es, isRet e = false
  | 0, s, hinv, hs, hb, hk, _ => absurd hk (linesToEnd_pos hs hinv.pc hb).not_ge
  | k + 1, s, hinv, hs, hb, hk, hbox => by
    have hinv' : Inv { s with inbox := runs k ++ rest } := hinv.afterInput _ s.draws
    obtain ⟨u, hu⟩ := engineStep_next hinv'
    have hmove : EngineMove { s with inbox := runs k ++ rest } u :=
      engineMove_of_afterWait (s := { s with inbox := runs k ++ rest }) hs hinv.pc hb hu
    have hstep : step s = .next u := (step_run hbox (hinv.opening_eq_none hs)).trans hu
    by_cases hend : u.fsm = .idle
    · obtain ⟨r, rfl, _⟩ := hmove.ends_of_idle hs hend
      exact ⟨1, _, [], Nat.le_add_left 1 k, runSteps_one hstep, rfl, by simp [opInFlight], nofun⟩
    · obtain ⟨hub, hnear⟩ := hmove.comes_nearer (hinv'.flight hs) hb hend
      have hbound : linesToEnd { s with inbox := runs k ++ rest } ≤ k + 1 := hk
      obtain ⟨j, t, es', hj, hrun, hidle, htrace', hret'⟩ :=
        runSteps_afterWait (hmove.inv hinv' hs) hend hub (by omega) hmove.inbox
      obtain ⟨es, htrace, _, hret⟩ := hmove.adds
      have e := hmove.sameOperation
      refine ⟨j + 1, t, es ++ es', by omega, (runSteps_next hstep).trans hrun, hidle, ?_, fun x hx => ?_⟩
      · rw [htrace', htrace, opInFlight_congr e.mode e.rdback]
        simp [opInFlight]
      · exact (List.mem_append.mp hx).elim (hret hend x) (hret' x)

end Sys2Proof.Machine

open Sys2Proof Sys2Proof.Machine in
/-- Settles O50: past the wait an operation has at most six lines to go. -/
theorem operationEndsAfterTheWait : Obligations.OperationEndsAfterTheWait := by
  intro s rest hinv hs hb hbox
  obtain ⟨k, t, es, hk, hrun, hidle, htrace, hret⟩ := runSteps_afterWait hinv hs hb (linesToEnd_le s) hbox
  exact ⟨k, t, es, hk, hrun, hidle, htrace, fun op r hmem => absurd (hret _ hmem) nofun⟩
end

section
/-! PROOF. The checks of OPEN (R180 O1 and O2, R181, R186, R229): what its own step answers, each answer under its
condition. -/

namespace Sys2Proof.Machine

theorem pinMissing_iff {T : FamilyTable} {p : Pins} :
    pinMissing T p = true ↔ ∃ r ∈ T.mandatoryRoles, p.get r = none := by
  simp [pinMissing]

theorem pinMissing_eq_false_iff {T : FamilyTable} {p : Pins} :
    pinMissing T p = false ↔ ∀ r ∈ T.mandatoryRoles, p.get r ≠ none := by
  rw [← Bool.not_eq_true, pinMissing_iff]
  push Not
  rfl

theorem depthExpressible_iff {c : OpenCfg} {s : State} :
    depthExpressible c s = true ↔ 1 ≤ c.pipelineDepth ∧ c.pipelineDepth ≤ s.par.maxDepth := by
  simp [depthExpressible]

section

variable {s : State} {h : Nat} {c : OpenCfg}

/-- A session, or an OPEN in progress, refuses the next OPEN (R186, R229). -/
theorem execOpen_busy (hb : s.sessionValid = true ∨ s.opening ≠ none) :
    execOpen h c s = .next (refuseOp .openOp .transportBusy s) := by
  have hbusy : (s.sessionValid || s.opening.isSome) = true := by
    rw [Bool.or_eq_true, Option.isSome_iff_ne_none]
    exact hb
  simp [execOpen, hbusy]

variable (hv : s.sessionValid = false) (ho : s.opening = none)
include hv ho

/-- Operands that R180 calls inexpressible are refused by name (assumption 11). -/
theorem execOpen_inexpressible (hc : inexpressible c s) : execOpen h c s = .refused .notExpressible := by
  cases hT : s.par.table? c.deviceFamily with
  | none => simp [execOpen, hv, ho, hT]
  | some T =>
    have hdepth : depthExpressible c s = false := by
      rw [← Bool.not_eq_true, depthExpressible_iff]
      rcases hc with hnone | hzero | hdeep
      · exact absurd (hT.symm.trans hnone) nofun
      · omega
      · omega
    simp [execOpen, hv, ho, hT, hdepth]

variable {T : FamilyTable} (hT : s.par.table? c.deviceFamily = some T) (hpos : 1 ≤ c.pipelineDepth)
  (hmax : c.pipelineDepth ≤ s.par.maxDepth)
include hT hpos hmax

/-- Expressible operands come to the check O2 (R180). -/
theorem execOpen_begins : execOpen h c s = .next (beginOpen T h c s) := by
  simp [execOpen, hv, ho, hT, depthExpressible_iff.mpr ⟨hpos, hmax⟩]

theorem execOpen_missingPin (hp : ∃ r ∈ T.mandatoryRoles, c.pins.get r = none) :
    execOpen h c s = .next (refuseOp .openOp .missingPin s) := by
  rw [execOpen_begins hv ho hT hpos hmax, beginOpen, if_pos (pinMissing_iff.mpr hp)]

theorem execOpen_passes (hp : ∀ r ∈ T.mandatoryRoles, c.pins.get r ≠ none) :
    execOpen h c s = .next { s with opening := some ⟨h, c, .sync⟩ } := by
  rw [execOpen_begins hv ho hT hpos hmax, beginOpen, if_neg (by simp [pinMissing_eq_false_iff.mpr hp])]

end

end Sys2Proof.Machine

open Sys2Proof Sys2Proof.Machine in
/-- Settles O20: the check O1 comes first. -/
theorem secondOpenIsRefused : Obligations.SecondOpenIsRefused :=
  fun _ h c hv => execOpen_session hv h c

open Sys2Proof Sys2Proof.Machine in
/-- Settles O25: behind the check O1 the operands are looked at. -/
theorem inexpressibleOpenIsRefusedByName : Obligations.InexpressibleOpenIsRefusedByName :=
  fun _ _ _ hv ho hc => execOpen_inexpressible hv ho hc
end

section
/-! PROOF. The lines of an OPEN in progress (R180 O3 and O4, R183 to R185): what each can write, that each comes nearer
to its return, and what any moves until then make of the state (R55, R61). -/

namespace Sys2Proof.Machine

/-! ### What OPEN can write -/

/-- `s` with what an OPEN in progress, the transport's performances and the inputs taken can write of it as `t` has
it. -/
def withOpenWrites (s t : State) : State :=
  { s with
    sessionValid := t.sessionValid, cfg := t.cfg, lineSync := t.lineSync, lineLatch := t.lineLatch
    lineReset := t.lineReset, lineAnswers := t.lineAnswers, draws := t.draws, result := t.result
    opening := t.opening, transport := t.transport, inbox := t.inbox, trace := t.trace }

/-- All else in `t`, the engine's registers among it, is as in `s`. -/
def OnlyOpenWrites (s t : State) : Prop := t = withOpenWrites s t

theorem OnlyOpenWrites.refl (s : State) : OnlyOpenWrites s s := rfl

theorem OnlyOpenWrites.trans {s u t : State} (h : OnlyOpenWrites s u) (h' : OnlyOpenWrites u t) :
    OnlyOpenWrites s t :=
  calc t = withOpenWrites u t := h'
    _ = withOpenWrites (withOpenWrites s u) t := congrArg (withOpenWrites · t) h
    _ = withOpenWrites s t := rfl

/-- An input taken off the list. -/
theorem OnlyOpenWrites.inbox {s u : State} (h : OnlyOpenWrites s u) (i : List Input) :
    OnlyOpenWrites s { u with inbox := i } :=
  h.trans (t := { u with inbox := i }) rfl

theorem OnlyOpenWrites.fsm {s t : State} (h : OnlyOpenWrites s t) : t.fsm = s.fsm :=
  (congrArg State.fsm h : t.fsm = (withOpenWrites s t).fsm)

theorem takeLineAnswer_onlyOpenWrites (s : State) : OnlyOpenWrites s (takeLineAnswer s).2 := by
  unfold takeLineAnswer
  split <;> rfl

theorem putLine_onlyOpenWrites (r : CtlLine) (v : LineState) (s : State) : OnlyOpenWrites s (putLine r v s) := by
  cases r <;> rfl

theorem emit_onlyOpenWrites (e : Event) (s : State) : OnlyOpenWrites s (emit e s) := rfl

theorem setLine_onlyOpenWrites (p : Pins) (r : CtlLine) (v : Level) (s : State) :
    OnlyOpenWrites s (setLine p r v s).2 := by
  unfold setLine
  split
  · exact .refl s
  · exact (takeLineAnswer_onlyOpenWrites s).trans <| (putLine_onlyOpenWrites r _ _).trans (emit_onlyOpenWrites _ _)

theorem pulseLine_onlyOpenWrites (p : Pins) (r : CtlLine) (d : Nat) (s : State) :
    OnlyOpenWrites s (pulseLine p r d s).2 := by
  unfold pulseLine
  split
  · exact .refl s
  · exact (takeLineAnswer_onlyOpenWrites s).trans <| (putLine_onlyOpenWrites r _ _).trans (emit_onlyOpenWrites _ _)

theorem openPulse_onlyOpenWrites (T : FamilyTable) (p : Pins) (s : State) :
    OnlyOpenWrites s (openPulse T p s).2 := by
  rcases openPulse_cases T p s with e | e <;> rw [e]
  · exact .refl s
  · exact pulseLine_onlyOpenWrites p .reset T.tResetLowMin s

theorem perform_onlyOpenWrites (id : Nat) (ok : Bool) (rx : Nat) (s : State) :
    OnlyOpenWrites s (perform id ok rx s) := by
  rcases perform_cases id ok rx s with e | ⟨x, _, _, e⟩ <;> rw [e] <;> rfl

/-! ### The lines of OPEN -/

/-- An event of a line call of OPEN: a call of a line, or a pulse of RESET (R183). -/
def IsOpenCall (e : Event) : Prop := ∃ r v d ok, e = .line r v ok ∨ e = .pulse .reset d ok

theorem setLine_isOpenCall (p : Pins) (r : CtlLine) (v : Level) (s : State) :
    ∃ es, (setLine p r v s).2.trace = s.trace ++ es ∧ ∀ e ∈ es, IsOpenCall e := by
  cases h : p.ctl r with
  | none => exact ⟨[], by simp [setLine_unassigned h], nofun⟩
  | some l =>
    exact ⟨_, (setLine_assigned (by simp [h]) v s).1, fun e he => ⟨r, v, 0, _, .inl (List.mem_singleton.mp he)⟩⟩

theorem openPulse_isOpenCall (T : FamilyTable) (p : Pins) (s : State) :
    ∃ es, (openPulse T p s).2.trace = s.trace ++ es ∧ ∀ e ∈ es, IsOpenCall e := by
  rcases openPulse_cases T p s with e | e <;> rw [e]
  · exact ⟨[], by simp, nofun⟩
  · cases h : p.ctl .reset with
    | none => exact ⟨[], by simp [pulseLine_unassigned h], nofun⟩
    | some l =>
      exact ⟨_, (pulseLine_assigned (by simp [h]) T.tResetLowMin s).1,
        fun e he => ⟨.reset, .high, T.tResetLowMin, _, .inr (List.mem_singleton.mp he)⟩⟩

/-- How many moves of the block an OPEN at this line has still to go at most. -/
def linesToReturn : OpenLine → Nat
  | .sync => 5
  | .latch => 4
  | .reset => 3
  | .pulse => 2
  | .done | .failed => 1

theorem linesToReturn_pos (l : OpenLine) : 0 < linesToReturn l := by
  cases l <;> decide

theorem linesToReturn_le (l : OpenLine) : linesToReturn l ≤ 5 := by
  cases l <;> decide

/-- How the OPEN `o` has returned: with a session of its operands, or with the error and neither (R184, R185). -/
def OpenReturns (o : Opening) (s t : State) : Prop :=
  t.result = .ok ∧ t.sessionValid = true ∧
      t.cfg = ⟨o.cfg.deviceFamily, o.cfg.pins, o.handle, o.cfg.pipelineDepth, o.cfg.clockFreq⟩ ∨
    t.result = .err .lineSequencingFailed ∧ t.sessionValid = false ∧ t.cfg = s.cfg

/-- What a line of the OPEN `o`, which makes the events `es`, leaves of it: it is nearer to its return, or it has
returned. -/
inductive OpenAdvance (o : Opening) (s t : State) (es : List Event) : Prop where
  | goesOn (q : Opening) (opening : t.opening = some q) (handle : q.handle = o.handle) (operands : q.cfg = o.cfg)
      (nearer : linesToReturn q.line < linesToReturn o.line) (calls : ∀ e ∈ es, IsOpenCall e) (cfg : t.cfg = s.cfg)
  | returns (opening : t.opening = none) (ret : es = [.ret .openOp t.result]) (result : OpenReturns o s t)

/-- Everything a line of an OPEN in progress does (R180 O3, O4, R185). -/
structure OpenMove (o : Opening) (s t : State) (es : List Event) : Prop where
  trace     : t.trace = s.trace ++ es
  transport : t.transport = s.transport
  inbox     : t.inbox = s.inbox
  writes    : OnlyOpenWrites s t
  advance   : OpenAdvance o s t es

/-- After a line call OPEN goes on at a later line, or at its return. -/
theorem openNext_move {o : Opening} {l : OpenLine} {s : State} {a : Bool × State}
    (call : ∃ es, a.2.trace = s.trace ++ es ∧ ∀ e ∈ es, IsOpenCall e) (writes : OnlyOpenWrites s a.2)
    (transport : a.2.transport = s.transport) (inbox : a.2.inbox = s.inbox) (cfg : a.2.cfg = s.cfg)
    (before : 1 < linesToReturn o.line) (next : linesToReturn l < linesToReturn o.line) :
    ∃ es, OpenMove o s (openNext o l a) es := by
  obtain ⟨es, trace, calls⟩ := call
  refine ⟨es, trace, transport, inbox, writes.trans rfl, .goesOn _ rfl rfl rfl ?_ calls cfg⟩
  cases a.1
  · exact before
  · exact next

theorem openStep_move {o : Opening} {s t : State} (hv : s.sessionValid = false) (h : openStep o s = .next t) :
    ∃ es, OpenMove o s t es := by
  rcases openStep_cases h with ⟨r, v, l, rfl, hnext⟩ | ⟨T, hline, _, rfl⟩ | ⟨_, rfl⟩ | ⟨_, rfl⟩
  · have hlines : 1 < linesToReturn o.line ∧ linesToReturn l < linesToReturn o.line := by
      simp only [List.mem_cons, Prod.mk.injEq, List.not_mem_nil, or_false] at hnext
      rcases hnext with ⟨hline, _, _, rfl⟩ | ⟨hline, _, _, rfl⟩ | ⟨hline, _, _, rfl⟩ <;> rw [hline] <;> decide
    exact openNext_move (setLine_isOpenCall _ _ _ _) (setLine_onlyOpenWrites _ _ _ _) (by simp) (by simp) (by simp)
      hlines.1 hlines.2
  · exact openNext_move (openPulse_isOpenCall _ _ _) (openPulse_onlyOpenWrites _ _ _) (by simp) (by simp) (by simp)
      (by rw [hline]; decide) (by rw [hline]; decide)
  · exact ⟨_, rfl, rfl, rfl, rfl, .returns rfl rfl (.inl ⟨rfl, rfl, rfl⟩)⟩
  · exact ⟨_, rfl, rfl, rfl, rfl, .returns rfl rfl (.inr ⟨rfl, hv, rfl⟩)⟩

/-! ### The ports while OPEN is in progress -/

/-- An event of the block's own: not a performance. -/
def isOwnEvent (e : Event) : Bool := isEngineEvent e || isRet e

theorem IsOpenCall.isOwnEvent {e : Event} (h : IsOpenCall e) : isOwnEvent e = true := by
  obtain ⟨r, v, d, ok, rfl | rfl⟩ := h <;> rfl

theorem OpenAdvance.isOwnEvent {o : Opening} {s t : State} {es : List Event} (h : OpenAdvance o s t es) :
    ∀ e ∈ es, isOwnEvent e = true := by
  cases h with
  | goesOn _ _ _ _ _ calls => exact fun e he => (calls e he).isOwnEvent
  | returns _ ret =>
    subst ret
    simp [Machine.isOwnEvent, isRet]

theorem afterPerfs_append (p : List EnvMove) (m : EnvMove) (s : State) :
    afterPerfs (p ++ [m]) s = afterPerfs [m] (afterPerfs p s) :=
  List.foldl_append

/-- A performance depends on the transport alone (R61). -/
theorem perform_of_transport_eq {s u : State} (h : u.transport = s.transport) (id : Nat) (ok : Bool) (rx : Nat) :
    (perform id ok rx u).transport = (perform id ok rx s).transport ∧
    ∃ es, (perform id ok rx u).trace = u.trace ++ es ∧ (perform id ok rx s).trace = s.trace ++ es ∧
      ∀ e ∈ es, isOwnEvent e = false := by
  unfold perform
  rw [h]
  split
  · exact ⟨h, [], by simp, by simp, nofun⟩
  · exact ⟨rfl, [.perf id ok], rfl, rfl, by simp [isOwnEvent, isEngineEvent, isRet]⟩

/-- After the moves `p` from `s` the transport is what the performances among them make of it, and so is the trace but
for the events `own`. -/
structure PortsFollow (s : State) (p : List EnvMove) (own : List Event) (u : State) : Prop where
  transport : u.transport = (afterPerfs p s).transport
  trace     : ∃ es, u.trace = s.trace ++ es ∧ es.filter isOwnEvent = own ∧
    s.trace ++ es.filter (fun e => !isOwnEvent e) = (afterPerfs p s).trace

theorem PortsFollow.start (s : State) (i : List Input) : PortsFollow s [] [] { s with inbox := i } :=
  ⟨rfl, [], by simp, rfl, by simp [afterPerfs]⟩

section

variable {s u t : State} {p : List EnvMove} {own : List Event} (h : PortsFollow s p own u)
include h

/-- A move that performs nothing, and adds events of the block's own. -/
theorem PortsFollow.block {m : EnvMove} {es : List Event} (perfs : ∀ v, afterPerfs [m] v = v)
    (transport : t.transport = u.transport) (trace : t.trace = u.trace ++ es) (hes : ∀ e ∈ es, isOwnEvent e = true) :
    PortsFollow s (p ++ [m]) (own ++ es) t := by
  obtain ⟨fs, hfs, hown, hperf⟩ := h.trace
  have hnone : es.filter (fun e => !isOwnEvent e) = [] :=
    List.filter_eq_nil_iff.mpr fun e he => by simp [hes e he]
  refine ⟨?_, fs ++ es, by rw [trace, hfs, List.append_assoc], ?_, ?_⟩
  · rw [afterPerfs_append, perfs, transport, h.transport]
  · rw [List.filter_append, hown, List.filter_eq_self.mpr hes]
  · rw [afterPerfs_append, perfs, List.filter_append, hnone, List.append_nil, hperf]

/-- A performance. -/
theorem PortsFollow.perf (id : Nat) (ok : Bool) (rx : Nat) :
    PortsFollow s (p ++ [.perf id ok rx]) own (perform id ok rx u) := by
  obtain ⟨fs, hfs, hown, hperf⟩ := h.trace
  obtain ⟨htransport, es, hu, hs, hes⟩ := perform_of_transport_eq h.transport id ok rx
  have hnone : es.filter isOwnEvent = [] := List.filter_eq_nil_iff.mpr fun e he => by simp [hes e he]
  have hall : es.filter (fun e => !isOwnEvent e) = es := List.filter_eq_self.mpr fun e he => by simp [hes e he]
  refine ⟨by rw [htransport, afterPerfs_append]; rfl, fs ++ es, by rw [hu, hfs, List.append_assoc], ?_, ?_⟩
  · rw [List.filter_append, hown, hnone, List.append_nil]
  · rw [List.filter_append, hall, ← List.append_assoc, hperf, ← hs, afterPerfs_append]
    rfl

end

/-! ### Any moves until OPEN returns -/

/-- Where the OPEN `o` of `s` stands in `u` after `j` moves of the block, which have made the events `own`. -/
inductive OpenStage (o : Opening) (s : State) (j : Nat) (own : List Event) (u : State) : Prop where
  | inProgress (q : Opening) (opening : u.opening = some q) (handle : q.handle = o.handle) (operands : q.cfg = o.cfg)
      (left : j + linesToReturn q.line ≤ 5) (calls : ∀ e ∈ own, IsOpenCall e) (cfg : u.cfg = s.cfg)
  | returned (calls : List Event) (opening : u.opening = none) (ret : own = calls ++ [.ret .openOp u.result])
      (isCall : ∀ e ∈ calls, IsOpenCall e) (result : OpenReturns o s u)

/-- The state `u` to which the moves `p` lead from `s`, where the OPEN `o` was in progress. -/
structure OpenPoint (o : Opening) (s : State) (p : List EnvMove) (own : List Event) (u : State) : Prop where
  inv    : Inv u
  idle   : s.fsm = .idle
  writes : OnlyOpenWrites s u
  ports  : PortsFollow s p own u
  stage  : OpenStage o s (p.count .run) own u

theorem OpenPoint.start {s : State} {o : Opening} (h : Inv s) (ho : s.opening = some o) : OpenPoint o s [] [] s where
  inv := h
  idle := h.idle_of_noSession (h.opening o ho).noSession
  writes := .refl s
  ports := .start s s.inbox
  stage := .inProgress o ho rfl rfl (by simpa using linesToReturn_le o.line) nofun rfl

/-- An engine at rest has no maximum wait to run out (R43). -/
theorem waitExpires_idle {s : State} (hs : s.fsm = .idle) (f : Bool) : waitExpires f s = s := by
  simp [waitExpires, mayExpire, hs]

section

variable {o : Opening} {s u : State} {p : List EnvMove} {own : List Event} {rest : List Input}
  (h : OpenPoint o s p own u)
include h

theorem OpenPoint.fsm_idle : u.fsm = .idle := h.writes.fsm.trans h.idle

/-- A move of the OPEN in progress. -/
theorem OpenPoint.advance {q : Opening} {t : State} {es : List Event} (handle : q.handle = o.handle)
    (operands : q.cfg = o.cfg) (left : p.count .run + linesToReturn q.line ≤ 5) (calls : ∀ e ∈ own, IsOpenCall e)
    (cfg : u.cfg = s.cfg)
    (hstep : step u = .next t) (hmove : OpenMove q { u with inbox := rest } t es) :
    OpenPoint o s (p ++ [.run]) (own ++ es) t := by
  refine ⟨registerInvariantIsKept _ _ h.inv hstep, h.idle, (h.writes.inbox rest).trans hmove.writes,
    h.ports.block (fun _ => rfl) hmove.transport hmove.trace hmove.advance.isOwnEvent, ?_⟩
  cases hmove.advance with
  | goesOn q' opening' handle' operands' nearer calls' cfg' =>
    refine .inProgress q' opening' (handle'.trans handle) (operands'.trans operands) ?_ (fun e he => ?_)
      (cfg'.trans cfg)
    · rw [List.count_append, List.count_singleton_self]
      omega
    · exact (List.mem_append.mp he).elim (calls e) (calls' e)
  | returns opening' ret result =>
    refine .returned own opening' (by rw [ret]) calls ?_
    rw [OpenReturns, handle, operands] at result
    exact result.imp_right fun ⟨hres, hv, hcfg⟩ => ⟨hres, hv, hcfg.trans cfg⟩

/-- A move that has nothing to do. -/
theorem OpenPoint.still {m : EnvMove} (hbox : u.inbox = .move m :: rest)
    (henv : envStep m { u with inbox := rest } = .next { u with inbox := rest })
    (perfs : ∀ v, afterPerfs [m] v = v) (stage : OpenStage o s ((p ++ [m]).count .run) own u) :
    ∃ t own', step u = .next t ∧ t.inbox = rest ∧ OpenPoint o s (p ++ [m]) own' t := by
  have hstep : step u = .next { u with inbox := rest } := (step_move hbox).trans henv
  have ports : PortsFollow s (p ++ [m]) (own ++ []) { u with inbox := rest } :=
    h.ports.block perfs rfl (List.append_nil _).symm nofun
  refine ⟨_, own, hstep, rfl, registerInvariantIsKept _ _ h.inv hstep, h.idle, h.writes.inbox rest,
    List.append_nil own ▸ ports, ?_⟩
  cases stage with
  | inProgress q opening handle operands left calls cfg => exact .inProgress q opening handle operands left calls cfg
  | returned calls opening ret isCall result => exact .returned calls opening ret isCall result

/-- The block's move: the next line of OPEN or, where it has returned, none. -/
theorem OpenPoint.run (hbox : u.inbox = .move .run :: rest) :
    ∃ t own', step u = .next t ∧ t.inbox = rest ∧ OpenPoint o s (p ++ [.run]) own' t := by
  cases h.stage with
  | inProgress q opening handle operands left calls cfg =>
    have hinv : Inv { u with inbox := rest } := h.inv.afterInput rest u.draws
    have hblock : blockStep { u with inbox := rest } = openStep q { u with inbox := rest } := by
      simp [blockStep, opening]
    obtain ⟨t, ht⟩ := openStep_next (hinv.opening q opening)
    obtain ⟨es, hmove⟩ := openStep_move (hinv.opening q opening).noSession ht
    have hstep : step u = .next t := (step_move hbox).trans (hblock.trans ht)
    exact ⟨t, _, hstep, hmove.inbox, h.advance handle operands left calls cfg hstep hmove⟩
  | returned calls opening ret isCall result =>
    refine h.still hbox ?_ (fun _ => rfl) (.returned calls opening ret isCall result)
    simp [envStep, blockStep, opening, engineStep, h.fsm_idle]

/-- A performance by the transport. -/
theorem OpenPoint.perf {id : Nat} {ok : Bool} {rx : Nat} (hbox : u.inbox = .move (.perf id ok rx) :: rest) :
    ∃ t own', step u = .next t ∧ t.inbox = rest ∧ OpenPoint o s (p ++ [.perf id ok rx]) own' t := by
  have hstep : step u = .next (perform id ok rx { u with inbox := rest }) := step_move hbox
  have ports : PortsFollow s p own { u with inbox := rest } := { h.ports with }
  have hcount : (p ++ [EnvMove.perf id ok rx]).count .run = p.count .run := by simp
  refine ⟨_, own, hstep, by simp, registerInvariantIsKept _ _ h.inv hstep, h.idle,
    (h.writes.inbox rest).trans (perform_onlyOpenWrites id ok rx _), ports.perf id ok rx, ?_⟩
  rw [hcount]
  cases h.stage with
  | inProgress q opening handle operands left calls cfg =>
    exact .inProgress q (by simpa using opening) handle operands left calls (by simpa using cfg)
  | returned calls opening ret isCall result =>
    exact .returned calls (by simpa using opening) (by simpa using ret) isCall (by simpa [OpenReturns] using result)

/-- The end of a maximum wait, of which there is none while the engine rests. -/
theorem OpenPoint.expire {f : Bool} (hbox : u.inbox = .move (.expire f) :: rest) :
    ∃ t own', step u = .next t ∧ t.inbox = rest ∧ OpenPoint o s (p ++ [.expire f]) own' t := by
  have hcount : (p ++ [EnvMove.expire f]).count .run = p.count .run := by simp
  have hwait : waitExpires f { u with inbox := rest } = { u with inbox := rest } :=
    waitExpires_idle (s := { u with inbox := rest }) h.fsm_idle f
  exact h.still hbox (congrArg Host.Outcome.next hwait) (fun _ => rfl) (hcount ▸ h.stage)

end

/-- Any moves. -/
theorem OpenPoint.moves {o : Opening} {s : State} {rest : List Input} : ∀ {q p : List EnvMove} {own : List Event}
    {u : State}, OpenPoint o s p own u → u.inbox = q.map .move ++ rest →
    ∃ t own', runSteps q.length u = .next t ∧ t.inbox = rest ∧ OpenPoint o s (p ++ q) own' t
  | [], p, own, u, h, hbox => ⟨u, own, rfl, hbox, by simpa using h⟩
  | m :: q, p, own, u, h, hbox => by
    obtain ⟨v, own₁, hstep, hvbox, hv⟩ :
        ∃ v own₁, step u = .next v ∧ v.inbox = q.map .move ++ rest ∧ OpenPoint o s (p ++ [m]) own₁ v := by
      cases m with
      | run => exact h.run hbox
      | perf => exact h.perf hbox
      | expire => exact h.expire hbox
    obtain ⟨t, own₂, hrun, htbox, ht⟩ := OpenPoint.moves hv hvbox
    exact ⟨t, own₂, (runSteps_next hstep).trans hrun, htbox, by simpa using ht⟩

/-- After five moves of the block OPEN has returned (R180). -/
theorem OpenPoint.returned {o : Opening} {s u : State} {p : List EnvMove} {own : List Event} (h : OpenPoint o s p own u)
    (hruns : p.count .run = 5) : u.opening = none ∧ OpenReturns o s u ∧
      ∃ calls, own = calls ++ [.ret .openOp u.result] ∧ ∀ e ∈ calls, IsOpenCall e := by
  cases h.stage with
  | inProgress q _ _ _ left =>
    have hpos := linesToReturn_pos q.line
    omega
  | returned calls opening ret isCall result => exact ⟨opening, result, calls, ret, isCall⟩

end Sys2Proof.Machine

open Sys2Proof Sys2Proof.Machine in
/-- Settles O24: the first clause by the checks in their order, the second by following the moves one by one. -/
theorem openAnswersAndTouchesNoEngine : Obligations.OpenAnswersAndTouchesNoEngine := by
  refine ⟨fun s h c T hT hpos hmax => ?_, fun s o moves rest hinv ho hruns hbox => ?_⟩
  · by_cases hbusy : s.sessionValid = true ∨ s.opening ≠ none
    · exact .inr ⟨_, .inl ⟨rfl, hbusy⟩, execOpen_busy hbusy⟩
    · obtain ⟨hv, ho⟩ : s.sessionValid = false ∧ s.opening = none := by simpa using hbusy
      by_cases hp : ∃ r ∈ T.mandatoryRoles, c.pins.get r = none
      · exact .inr ⟨_, .inr ⟨rfl, hv, ho, hp⟩, execOpen_missingPin hv ho hT hpos hmax hp⟩
      · have hp : ∀ r ∈ T.mandatoryRoles, c.pins.get r ≠ none := by simpa using hp
        exact .inl ⟨hv, ho, hp, execOpen_passes hv ho hT hpos hmax hp⟩
  · obtain ⟨t, own, hrun, htbox, ht⟩ := (OpenPoint.start hinv ho).moves hbox
    obtain ⟨es, htrace, hown, hperfs⟩ := ht.ports.trace
    obtain ⟨hopening, hresult, calls, rfl, hcalls⟩ := ht.returned hruns
    exact ⟨t, es, calls, hrun, hopening, htbox, htrace, hown, hcalls, ht.ports.transport, hperfs, ht.writes, hresult⟩
end

section
/-! PROOF. The power-up sequence call by call (R180 O3, R183, R185): each line of OPEN by the driver's answer, the moves
while every call succeeds, and those up to the first that fails. -/

namespace Sys2Proof.Machine

/-! ### What line calls leave -/

/-- What line calls leave: their events, and what those say of each LINE register (R24, R45, R46). -/
def afterCalls (es : List Event) (s : State) : State :=
  { s with
    lineSync := lineAfterEvents s.par .sync s.lineSync es, lineLatch := lineAfterEvents s.par .latch s.lineLatch es
    lineReset := lineAfterEvents s.par .reset s.lineReset es, trace := s.trace ++ es }

theorem afterCalls_nil (s : State) : afterCalls [] s = s := by
  simp [afterCalls, lineAfterEvents]

theorem afterCalls_append (es fs : List Event) (s : State) :
    afterCalls (es ++ fs) s = afterCalls fs (afterCalls es s) := by
  simp [afterCalls, lineAfterEvents]

section

variable {p : Pins} {r : CtlLine} {s : State} {a : Bool} {answers : List Bool}
  (assigned : (p.ctl r).isSome = true) (listed : s.lineAnswers = a :: answers)
include assigned listed

theorem setLine_afterCalls (v : Level) :
    setLine p r v s = (a, afterCalls [.line r v a] { s with lineAnswers := answers }) := by
  rw [setLine_listed assigned listed]
  cases r <;> rfl

theorem pulseLine_afterCalls (d : Nat) :
    pulseLine p r d s = (a, afterCalls [.pulse r d a] { s with lineAnswers := answers }) := by
  rw [pulseLine_listed assigned listed]
  cases r <;> rfl

end

/-! ### One line of OPEN -/

/-- A line of OPEN that may make a call, and the line that comes next where the call succeeds (R180 O3). -/
inductive CallLine : OpenLine → OpenLine → Prop where
  | sync : CallLine .sync .latch
  | latch : CallLine .latch .reset
  | reset : CallLine .reset .pulse
  | pulse : CallLine .pulse .done

theorem CallLine.linesToReturn {l l' : OpenLine} (h : CallLine l l') : linesToReturn l = linesToReturn l' + 1 := by
  cases h <;> rfl

/-- The line's call as OPEN's step makes it (R180 O3). -/
def lineCall (T : FamilyTable) (pins : Pins) (l : OpenLine) (s : State) : Bool × State :=
  match l with
  | .sync => setLine pins .sync .high s
  | .latch => setLine pins .latch s.par.latchIdle s
  | .reset => setLine pins .reset .high s
  | .pulse => openPulse T pins s
  | .done | .failed => (true, s)

/-- The event of a line's call where it succeeds; none where the role is unassigned (R45) or the family asks for no
pulse (R183). -/
def lineCallEvents (T : FamilyTable) (pins : Pins) (p : Params) : OpenLine → List Event
  | .sync => if (pins.ctl .sync).isSome then [.line .sync .high true] else []
  | .latch => if (pins.ctl .latch).isSome then [.line .latch p.latchIdle true] else []
  | .reset => if (pins.ctl .reset).isSome then [.line .reset .high true] else []
  | .pulse => if (pins.ctl .reset).isSome ∧ T.powerupReset = true then [.pulse .reset T.tResetLowMin true] else []
  | .done | .failed => []

theorem lineCallEvents_cases (T : FamilyTable) (pins : Pins) (p : Params) (l : OpenLine) :
    lineCallEvents T pins p l = [] ∨ ∃ e, lineCallEvents T pins p l = [e] := by
  cases l with
  | done | failed => exact .inl rfl
  | _ =>
    simp only [lineCallEvents]
    split
    · exact .inr ⟨_, rfl⟩
    · exact .inl rfl

section

variable {T : FamilyTable} {pins : Pins} {l : OpenLine} {s : State}

theorem openPulse_asked (asked : T.powerupReset = true) :
    openPulse T pins s = pulseLine pins .reset T.tResetLowMin s := by
  simp [openPulse, resetPulse, asked]

theorem openPulse_notAsked (notAsked : T.powerupReset = false) : openPulse T pins s = (true, s) := by
  simp [openPulse, notAsked]

/-- A line without a call changes nothing and has not failed (R45). -/
theorem lineCall_of_none (calls : lineCallEvents T pins s.par l = []) : lineCall T pins l s = (true, s) := by
  cases l with
  | done | failed => rfl
  | sync | latch | reset => exact setLine_unassigned (by simpa [lineCallEvents] using calls) _ _
  | pulse =>
    change openPulse T pins s = (true, s)
    cases asked : T.powerupReset with
    | false => exact openPulse_notAsked asked
    | true =>
      rw [openPulse_asked asked]
      exact pulseLine_unassigned (by simpa [lineCallEvents, asked] using calls) _ _

theorem eq_of_ite_singleton {b : Prop} [Decidable b] {x e : Event} (h : (if b then [x] else []) = [e]) :
    b ∧ e = x := by
  split at h <;> simp_all

/-- A line's call with the driver's listed answer `a` (R45, R46). -/
theorem lineCall_of_listed {e : Event} {a : Bool} {answers : List Bool}
    (calls : lineCallEvents T pins s.par l = [e]) (listed : s.lineAnswers = a :: answers) :
    lineCall T pins l s =
      (a, afterCalls [if a then e else asFailed e] { s with lineAnswers := answers }) := by
  cases l with
  | done | failed => cases calls
  | sync | latch | reset =>
    obtain ⟨assigned, rfl⟩ := eq_of_ite_singleton calls
    refine (setLine_afterCalls assigned listed _).trans ?_
    cases a <;> rfl
  | pulse =>
    obtain ⟨⟨assigned, asked⟩, rfl⟩ := eq_of_ite_singleton calls
    refine (openPulse_asked asked).trans <| (pulseLine_afterCalls assigned listed _).trans ?_
    cases a <;> rfl

end

/-- A step of the block while an OPEN is in progress. -/
theorem step_opening {s : State} {o : Opening} {rest : List Input} (hbox : s.inbox = .move .run :: rest)
    (ho : s.opening = some o) : step s = openStep o { s with inbox := rest } := by
  rw [step_move hbox]
  simp [envStep, blockStep, ho]

theorem openStep_eq {T : FamilyTable} {h : Nat} {c : OpenCfg} {l l' : OpenLine} {s : State} (line : CallLine l l')
    (table : s.par.table? c.deviceFamily = some T) :
    openStep ⟨h, c, l⟩ s = .next (openNext ⟨h, c, l⟩ l' (lineCall T c.pins l s)) := by
  cases line with
  | sync | latch | reset => rfl
  | pulse => simp [openStep, table, lineCall]

/-- An OPEN that goes on at line `l'` after the call of line `l`, where that succeeds. -/
def afterLine (T : FamilyTable) (h : Nat) (c : OpenCfg) (l l' : OpenLine) (answers : List Bool) (i : List Input)
    (s : State) : State :=
  afterCalls (lineCallEvents T c.pins s.par l) { s with
    opening := some ⟨h, c, l'⟩, lineAnswers := answers, inbox := i }

section

variable {T : FamilyTable} {h : Nat} {c : OpenCfg} {l l' : OpenLine} {s : State} {answers : List Bool}
  {rest : List Input} (line : CallLine l l') (table : s.par.table? c.deviceFamily = some T)
  (opening : s.opening = some ⟨h, c, l⟩) (hbox : s.inbox = .move .run :: rest)
include line table opening hbox

/-- A move at a line whose call, if it makes one, the driver answers with success (R183). -/
theorem step_open_succeeds
    (listed : s.lineAnswers = List.replicate (lineCallEvents T c.pins s.par l).length true ++ answers) :
    step s = .next (afterLine T h c l l' answers rest s) := by
  rw [step_opening hbox opening, openStep_eq (s := { s with inbox := rest }) line table, afterLine]
  rcases lineCallEvents_cases T c.pins s.par l with calls | ⟨e, calls⟩
  · rw [calls] at listed
    obtain rfl : s.lineAnswers = answers := listed
    rw [lineCall_of_none (s := { s with inbox := rest }) calls, calls, afterCalls_nil]
    rfl
  · rw [calls] at listed
    rw [lineCall_of_listed (s := { s with inbox := rest }) calls listed, calls]
    rfl

/-- A move at a line whose call the driver answers with failure (R185). -/
theorem step_open_fails {e : Event} (calls : lineCallEvents T c.pins s.par l = [e])
    (listed : s.lineAnswers = false :: answers) :
    step s = .next (afterCalls [asFailed e] { s with
      opening := some ⟨h, c, .failed⟩, lineAnswers := answers, inbox := rest }) := by
  rw [step_opening hbox opening, openStep_eq (s := { s with inbox := rest }) line table,
    lineCall_of_listed (s := { s with inbox := rest }) calls listed]
  rfl

end

/-! ### The lines in their order -/

/-- The lines from `l` to the return, with the events of their calls where all succeed (R180 O3, R183). -/
inductive OpenSequence (T : FamilyTable) (pins : Pins) (p : Params) : OpenLine → List Event → Prop where
  | done : OpenSequence T pins p .done []
  | call {l l' : OpenLine} {es : List Event} (line : CallLine l l') (next : OpenSequence T pins p l' es) :
      OpenSequence T pins p l (lineCallEvents T pins p l ++ es)

/-- The whole sequence makes the calls R183 lists. -/
theorem openSequence_openCalls (T : FamilyTable) (pins : Pins) (p : Params) :
    OpenSequence T pins p .sync (openCalls T pins p) := by
  have hcalls : openCalls T pins p = lineCallEvents T pins p .sync ++ (lineCallEvents T pins p .latch ++
      (lineCallEvents T pins p .reset ++ (lineCallEvents T pins p .pulse ++ []))) := by
    cases hreset : pins.reset <;>
      simp [openCalls, lineCallEvents, Pins.ctl, Pins.get, CtlLine.role, hreset] <;> rfl
  rw [hcalls]
  exact .call .sync <| .call .latch <| .call .reset <| .call .pulse .done

section

variable {T : FamilyTable} {h : Nat} {c : OpenCfg} {p : Params} {answers : List Bool} {rest : List Input}

/-- Where every call succeeds the moves left lead to the session (R184). -/
theorem OpenSequence.runSteps_establish {l : OpenLine} {es : List Event} (seq : OpenSequence T c.pins p l es) :
    ∀ {s : State}, s.par = p → s.par.table? c.deviceFamily = some T → s.opening = some ⟨h, c, l⟩ →
      s.lineAnswers = List.replicate es.length true ++ answers → s.inbox = runs (linesToReturn l) ++ rest →
      runSteps (linesToReturn l) s =
        .next (establish h c (afterCalls es { s with lineAnswers := answers, inbox := rest })) := by
  induction seq with
  | done =>
    intro s _ _ ho listed hbox
    obtain rfl : s.lineAnswers = answers := listed
    rw [afterCalls_nil]
    exact runSteps_one (step_opening hbox ho)
  | @call l l' es line next ih =>
    intro s hp table ho listed hbox
    subst hp
    rw [List.length_append, List.replicate_add, List.append_assoc] at listed
    rw [line.linesToReturn] at hbox ⊢
    have hstep := step_open_succeeds line table ho (rest := runs (linesToReturn l') ++ rest) hbox listed
    refine (runSteps_next hstep).trans <| (ih (s := afterLine T h c l l' _ _ s) rfl table rfl rfl rfl).trans ?_
    rw [afterCalls_append]
    rfl

/-- What an OPEN leaves whose calls were `es`, the last of which failed (R185). -/
def afterFailedOpen (es : List Event) (answers : List Bool) (i : List Input) (s : State) : State :=
  refuseOp .openOp .lineSequencingFailed
    (afterCalls es { s with opening := none, lineAnswers := answers, inbox := i })

theorem afterFailedOpen_afterLine {l l' : OpenLine} {es : List Event} {bs : List Bool} {i i' : List Input} {s : State} :
    afterFailedOpen es answers i (afterLine T h c l l' bs i' s) =
      afterFailedOpen (lineCallEvents T c.pins s.par l ++ es) answers i s := by
  rw [afterFailedOpen, afterFailedOpen, afterCalls_append]
  rfl

/-- The line that fails, and the return with the error (R185). -/
theorem runSteps_failingCall {l l' : OpenLine} {e : Event} {s : State} (line : CallLine l l')
    (table : s.par.table? c.deviceFamily = some T) (opening : s.opening = some ⟨h, c, l⟩)
    (calls : lineCallEvents T c.pins s.par l = [e]) (listed : s.lineAnswers = false :: answers)
    (hbox : s.inbox = runs 2 ++ rest) :
    runSteps 2 s = .next (afterFailedOpen [asFailed e] answers rest s) :=
  (runSteps_next (step_open_fails line table opening (rest := runs 1 ++ rest) hbox calls listed)).trans <|
  runSteps_one <| (step_opening (o := ⟨h, c, .failed⟩) (rest := rest) rfl rfl).trans rfl

/-- Where the call numbered `j` is the first that fails, moves that are left lead to the return with the error
(R185). -/
theorem OpenSequence.runSteps_fails {l : OpenLine} {es : List Event} {e : Event}
    (seq : OpenSequence T c.pins p l es) :
    ∀ {s : State} {j : Nat}, s.par = p → s.par.table? c.deviceFamily = some T → s.opening = some ⟨h, c, l⟩ →
      es[j]? = some e → s.lineAnswers = List.replicate j true ++ false :: answers →
      s.inbox = runs (linesToReturn l) ++ rest →
      ∃ k ≤ linesToReturn l, runSteps k s =
        .next (afterFailedOpen (es.take j ++ [asFailed e]) answers (runs (linesToReturn l - k) ++ rest) s) := by
  induction seq with
  | done =>
    intro s j _ _ _ he
    simp at he
  | @call l l' es line next ih =>
    intro s j hp table ho he listed hbox
    subst hp
    rw [line.linesToReturn] at hbox ⊢
    have later {i : Nat} (hj : j = (lineCallEvents T c.pins s.par l).length + i) :
        ∃ k ≤ linesToReturn l' + 1, runSteps k s = .next (afterFailedOpen
          ((lineCallEvents T c.pins s.par l ++ es).take j ++ [asFailed e]) answers
          (runs (linesToReturn l' + 1 - k) ++ rest) s) := by
      subst hj
      rw [List.replicate_add, List.append_assoc] at listed
      have hstep := step_open_succeeds line table ho (rest := runs (linesToReturn l') ++ rest) hbox listed
      rw [List.getElem?_append_right (Nat.le_add_right _ _), Nat.add_sub_cancel_left] at he
      obtain ⟨k, hk, hrun⟩ := ih (s := afterLine T h c l l' _ _ s) rfl table rfl he rfl rfl
      refine ⟨k + 1, Nat.succ_le_succ hk, (runSteps_next hstep).trans (hrun.trans ?_)⟩
      rw [afterFailedOpen_afterLine, List.take_length_add_append, List.append_assoc, Nat.add_sub_add_right]
    rcases lineCallEvents_cases T c.pins s.par l with calls | ⟨e', calls⟩
    · exact later (i := j) (by simp [calls])
    · cases j with
      | succ i => exact later (i := i) (by simp [calls, Nat.add_comm])
      | zero =>
        obtain rfl : e' = e := by simpa [calls] using he
        obtain ⟨m, hm⟩ : ∃ m, linesToReturn l' = m + 1 := Nat.exists_eq_succ_of_ne_zero (linesToReturn_pos l').ne'
        rw [hm] at hbox ⊢
        exact ⟨2, by omega, runSteps_failingCall line table ho calls listed (rest := runs m ++ rest) hbox⟩

end

/-! ### The registers after the sequence -/

/-- The whole sequence leaves an assigned line at its idle level (R9, R183). -/
theorem lineAfterEvents_openCalls (T : FamilyTable) {pins : Pins} {r : CtlLine} (assigned : (pins.ctl r).isSome = true)
    (p : Params) (v : LineState) : lineAfterEvents p r v (openCalls T pins p) = .known (idleLevel p r) := by
  unfold openCalls
  cases r with
  | sync =>
    rw [if_pos (show pins.sync.isSome = true from assigned)]
    split_ifs <;> rfl
  | latch =>
    rw [if_pos (show pins.latch.isSome = true from assigned)]
    split_ifs <;> rfl
  | reset =>
    rw [if_pos (show pins.reset.isSome = true from assigned)]
    split_ifs <;> rfl

/-- The session leaves the register of a role as the sequence has, or `Unknown` where it is unassigned (R184). -/
theorem keepAssigned_eq {line : Option Nat} {v v' : LineState} (h : line.isSome = true → v = v') :
    keepAssigned line v = if line.isSome then v' else .unknown := by
  unfold keepAssigned
  split
  · exact h (by assumption)
  · rfl

end Sys2Proof.Machine

open Sys2Proof Sys2Proof.Machine in
/-- Settles O22: five lines of OPEN, whose calls idle the lines that are assigned. -/
theorem openPowersUpAndEstablishes : Obligations.OpenPowersUpAndEstablishes := by
  intro s h c T answers rest hv ho hT hpos hmax hp listed hbox
  have hrun := (openSequence_openCalls T c.pins s.par).runSteps_establish (h := h) (answers := answers) (rest := rest)
    (s := { s with opening := some ⟨h, c, .sync⟩ }) rfl hT rfl listed hbox
  refine ⟨_, execOpen_passes hv ho hT hpos hmax hp, hrun.trans ?_⟩
  have sync := keepAssigned_eq (line := c.pins.sync) fun assigned =>
    lineAfterEvents_openCalls T (r := .sync) assigned s.par s.lineSync
  have latch := keepAssigned_eq (line := c.pins.latch) fun assigned =>
    lineAfterEvents_openCalls T (r := .latch) assigned s.par s.lineLatch
  have reset := keepAssigned_eq (line := c.pins.reset) fun assigned =>
    lineAfterEvents_openCalls T (r := .reset) assigned s.par s.lineReset
  simp only [establish, afterCalls, emit, sync, latch, reset, ho, idleLevel]

open Sys2Proof Sys2Proof.Machine in
/-- Settles O23: the lines before the failing call, the call and the return. -/
theorem openStopsAtTheFirstFailingLine : Obligations.OpenStopsAtTheFirstFailingLine := by
  intro s h c T j e answers rest hv ho hT hpos hmax hp he listed hbox es
  obtain ⟨k, hk, hrun⟩ := (openSequence_openCalls T c.pins s.par).runSteps_fails (h := h) (answers := answers)
    (rest := rest) (s := { s with opening := some ⟨h, c, .sync⟩ }) rfl hT rfl he listed hbox
  refine ⟨_, k, execOpen_passes hv ho hT hpos hmax hp, hk, hrun.trans ?_⟩
  rw [ho]
  rfl
end

section
/-! PROOF. Which steps answer `MissingPin` (R181, R193): the errors that a line of the engine, a line of OPEN and an
admission answer, none of which is it, and OPEN's own step. -/

namespace Sys2Proof.Machine

/-! ### The errors of a `Ret` -/

theorem isEngineError_missingPin (m : Mode) : isEngineError m .missingPin = false := by
  cases m <;> rfl

/-- An operation about to end has an error of its mode, or a read-back it could not decode (R143, R199, R203). -/
theorem ending_error {s : State} (hs : FlightOk s) (hp : pcFits s.fsm s.pc = true) {r : OpResult} {e : Error}
    (last : s.pc = .c3 ∧ r = s.res ∨ s.pc = .f1 ∧ r = .err s.err) (hr : r = .err e) :
    isEngineError s.mode e = true ∨ e = .malformedFrame := by
  rcases last with ⟨hpc, rfl⟩ | ⟨hpc, rfl⟩
  · rcases pcFits_ending hp (.inr hpc) with hf | hf
    · exact .inr (hs.decoded hf hpc e hr).2
    · rcases hs.latchRes hf (.inr hpc) with ⟨_, hres⟩ | ⟨_, _, hres⟩
      · exact absurd (hres.symm.trans hr) nofun
      · obtain rfl : Error.lineSequencingFailed = e := OpResult.err.inj (hres.symm.trans hr)
        exact .inl rfl
  · obtain rfl : s.err = e := OpResult.err.inj hr
    have hf : s.fsm = .anyFailed := by cases hf : s.fsm <;> simp_all [pcFits]
    exact .inl (hs.errors (hs.failing hf))

section

variable {s t : State} {es : List Event} {op : HostOp} {e : Error} (trace : t.trace = s.trace ++ es)
  (hret : .ret op (.err e) ∈ es)
include trace hret

/-- The events a step adds are those its trace shows. -/
theorem mem_of_trace_eq {fs : List Event} (trace' : t.trace = s.trace ++ fs) : .ret op (.err e) ∈ fs :=
  List.append_cancel_left (trace.symm.trans trace') ▸ hret

theorem false_of_trace_eq_self (trace' : t.trace = s.trace) : False := by
  have hmem := mem_of_trace_eq trace hret (fs := []) (by simpa using trace')
  cases hmem

theorem error_of_engine (hinv : Inv s) (hs : s.fsm ≠ .idle) (h : EngineMove s t) :
    isEngineError s.mode e = true ∨ e = .malformedFrame := by
  by_cases ht : t.fsm = .idle
  · obtain ⟨r, rfl, last⟩ := h.ends_of_idle hs ht
    have hmem := mem_of_trace_eq trace hret (fs := [.ret (opInFlight s) r]) rfl
    exact ending_error (hinv.flight hs) hinv.pc last (Event.ret.inj (List.mem_singleton.mp hmem)).2.symm
  · obtain ⟨fs, trace', _, hnone⟩ := h.adds
    exact absurd (hnone ht _ (mem_of_trace_eq trace hret trace')) nofun

theorem error_of_openStep {o : Opening} (hv : s.sessionValid = false) (h : openStep o s = .next t) :
    e = .lineSequencingFailed := by
  obtain ⟨fs, hmove⟩ := openStep_move hv h
  have hmem := mem_of_trace_eq trace hret hmove.trace
  cases hmove.advance with
  | goesOn _ _ _ _ _ calls =>
    obtain ⟨r, v, d, ok, hc | hc⟩ := calls _ hmem <;> cases hc
  | returns _ ret result =>
    rw [ret, List.mem_singleton, Event.ret.injEq] at hmem
    rcases result with ⟨hok, _⟩ | ⟨herr, _⟩
    · exact absurd (hmem.2.trans hok) nofun
    · exact OpResult.err.inj (hmem.2.trans herr)

theorem error_of_admission {op' : HostOp} {m : Mode} {b : Bool} {ws : List RegisterWord} {l : Bool}
    (h : admission op' m b ws l s = .next t) : isAdmissionError e = true := by
  rcases admission_cases h with ⟨e', he', rfl⟩ | ⟨_, _, _, _, _, _, _, _, rfl⟩
  · have hmem := mem_of_trace_eq trace hret (fs := [.ret op' (.err e')]) rfl
    rw [List.mem_singleton, Event.ret.injEq, OpResult.err.injEq] at hmem
    rw [hmem.2]
    exact he'
  · exact (false_of_trace_eq_self trace hret rfl).elim

theorem false_of_evalEncode {T : FamilyTable} {w : RegisterWord}
    (h : (.next (evalEncode T w s) : StepOutcome) = .next t) : False := by
  cases h
  exact false_of_trace_eq_self trace hret (by simp)

/-! ### `MissingPin` -/

/-- A move of the block or the transport never answers `MissingPin`. -/
theorem envStep_ne_missingPin {m : EnvMove} (hinv : Inv s) (h : envStep m s = .next t) : e ≠ .missingPin := by
  rintro rfl
  cases m with
  | run =>
    change blockStep s = .next t at h
    rcases blockStep_cases s with ⟨o, ho, hb⟩ | ⟨_, hb⟩ <;> rw [hb] at h
    · cases error_of_openStep trace hret (hinv.opening o ho).noSession h
    · rcases engineStep_cases h with rfl | ⟨hs, hmove⟩
      · exact false_of_trace_eq_self trace hret rfl
      · rcases error_of_engine trace hret hinv hs hmove with herr | herr
        · exact absurd ((isEngineError_missingPin s.mode).symm.trans herr) nofun
        · cases herr
  | perf id ok rx =>
    cases h
    rcases perform_cases id ok rx s with hp | ⟨x, _, _, hp⟩ <;> rw [hp] at trace
    · exact false_of_trace_eq_self trace hret rfl
    · simpa using mem_of_trace_eq trace hret (fs := [.perf id ok]) rfl
  | expire f =>
    cases h
    rcases waitExpires_cases f s with hw | ⟨_, _, hw⟩ | ⟨_, hw⟩ <;> rw [hw] at trace
    · exact false_of_trace_eq_self trace hret rfl
    · simpa using mem_of_trace_eq trace hret (fs := [.await (awaitedIds s) .transportFailure]) (by simp)
    · simpa using mem_of_trace_eq trace hret (fs := [.await (awaitedIds s) .timeout]) (by simp)

/-- Of the operations OPEN alone answers `MissingPin`, at the check O2 (R181). -/
theorem exec_missingPin (he : e = .missingPin) {i : Instr} (h : exec i s = .next t) :
    ∃ hd c T, i = .hostOpen hd c ∧ s.sessionValid = false ∧ s.opening = none ∧
      s.par.table? c.deviceFamily = some T ∧ ∃ r ∈ T.mandatoryRoles, c.pins.get r = none := by
  subst he
  cases i with
  | hostOpen hd c =>
    rcases execOpen_cases h with ⟨_, rfl⟩ | ⟨T, hv, ho, hT, _, ⟨hp, _⟩ | ⟨_, rfl⟩⟩
    · simpa using mem_of_trace_eq trace hret (fs := [.ret .openOp (.err .transportBusy)]) rfl
    · exact ⟨hd, c, T, rfl, hv, ho, hT, pinMissing_iff.mp hp⟩
    · exact (false_of_trace_eq_self trace hret rfl).elim
  | hostWrite | hostWriteBatch | hostRead => exact absurd (error_of_admission trace hret h) nofun
  | _ => exact (false_of_evalEncode trace hret h).elim

end

/-- A step that answers `MissingPin` is a presentation of OPEN at whose check O2 a role is missing (R181, R193). -/
theorem step_missingPin {s t : State} {op : HostOp} {es : List Event} (hinv : Inv s) (h : step s = .next t)
    (trace : t.trace = s.trace ++ es) (hret : .ret op (.err .missingPin) ∈ es) :
    ∃ w hd c T, s.inbox.head? = some (.port w) ∧ decode w = .instr (.hostOpen hd c) ∧ s.sessionValid = false ∧
      s.opening = none ∧ s.par.table? c.deviceFamily = some T ∧ ∃ r ∈ T.mandatoryRoles, c.pins.get r = none := by
  rcases step_cases s with ⟨x, xs, hx, hstep⟩ | ⟨_, hstep⟩ <;> rw [hstep] at h
  · have trace : t.trace = { s with inbox := xs }.trace ++ es := trace
    cases x with
    | port w =>
      simp only [deliver, present] at h
      split at h
      · rename_i i hd
        obtain ⟨hd', c, T, rfl, hopen⟩ := exec_missingPin trace hret rfl h
        exact ⟨w, hd', c, T, by rw [hx]; rfl, hd, hopen⟩
      · cases h
        exact (false_of_trace_eq_self trace hret rfl).elim
      · cases h
        exact (false_of_trace_eq_self trace hret rfl).elim
    | move m => exact absurd rfl (envStep_ne_missingPin trace hret (hinv.afterInput xs s.draws) h)
    | reset =>
      cases h
      exact (false_of_trace_eq_self trace hret rfl).elim
  · have trace : t.trace = { s with draws := s.draws + 1 }.trace ++ es := trace
    exact absurd rfl (envStep_ne_missingPin trace hret (hinv.afterInput s.inbox (s.draws + 1)) h)

/-- R71 (f). -/
theorem mandatoryRoles_of_wf {T : FamilyTable} (h : T.wf = true) : ∀ r ∈ [Role.clk, .dout, .sync],
    r ∈ T.mandatoryRoles := by
  simp only [FamilyTable.wf, FamilyTable.rowsOk, Bool.and_eq_true, List.contains_iff_mem] at h
  obtain ⟨_, ⟨⟨_, clk⟩, dout⟩, sync⟩ := h
  simpa using ⟨clk, dout, sync⟩

end Sys2Proof.Machine

open Sys2Proof Sys2Proof.Machine in
/-- Settles O21: the check O2 by its two answers, and what every step can answer. -/
theorem missingPinStopsOpen : Obligations.MissingPinStopsOpen := by
  refine ⟨fun s h c T hv ho hT hpos hmax =>
      ⟨execOpen_missingPin hv ho hT hpos hmax, execOpen_passes hv ho hT hpos hmax⟩,
    fun s t op es hinv h trace hret => step_missingPin hinv h trace hret, fun T hT => mandatoryRoles_of_wf hT, ?_⟩
  decide
end

section
/-! PROOF. A batch whose transfers the transport performs after the submissions, in any order and with any outcomes
(R61, R141, R201): the submissions in a row, the performances in a row, and the end by way of line F1. -/

namespace Sys2Proof.Machine

/-! ### Performances of pending transfers -/

/-- The transport holds a transfer of this id outstanding, and no completion of it yet (R44). -/
structure Pending (t : Transport) (id : Nat) : Prop where
  outstanding : ∃ x ∈ t.outstanding, x.id = id
  incomplete  : completionOf? t id = none

/-- The performance of another transfer leaves a transfer pending. -/
theorem Pending.completeTransfer_ne {t : Transport} {id : Nat} (h : Pending t id) {y : Transfer} (hy : y.id ≠ id)
    (ok : Bool) (rx : Nat) : Pending (completeTransfer t y ok rx) id where
  outstanding := by
    obtain ⟨x, hx, rfl⟩ := h.outstanding
    exact ⟨x, List.mem_filter.mpr ⟨hx, by simpa using hy.symm⟩, rfl⟩
  incomplete := (completionOf?_completeTransfer_ne hy ok rx).trans h.incomplete

/-- The performance of a transfer that had no completion gives it one with this outcome (R61). -/
theorem completionOf?_completeTransfer_self {t : Transport} {x : Transfer} (h : completionOf? t x.id = none) (ok : Bool)
    (rx : Nat) : ∃ c, completionOf? (completeTransfer t x ok rx) x.id = some c ∧ c.ok = ok := by
  have hfind : t.completions.find? (fun c => c.id == x.id) = none := h
  exact ⟨⟨x.id, ok, frameBytes x.nbits (rx % 2 ^ x.nbits)⟩,
    by simp [completionOf?, completeTransfer, List.find?_append, hfind], rfl⟩

/-- A submitted transfer of the batch is pending until it is performed (R42, R44). -/
theorem BatchTransport.pending {t₀ t : Transport} {m id : Nat} {done : List Nat} (h : BatchTransport t₀ t m done)
    (h₀ : TransportOk t₀) (hid : id ∈ freshIds t₀ m) (hdone : id ∉ done) : Pending t id where
  outstanding := h.exists_outstanding hid hdone
  incomplete := by
    obtain ⟨cs, hcs, hids, _⟩ := h.completions
    rw [completionOf?, hcs]
    refine List.find?_eq_none.mpr fun c hc => ?_
    rcases List.mem_append.mp hc with hc | hc
    · simpa using h₀.completion_ne hid hc
    · intro hcid
      exact hdone (hids ▸ List.mem_map.mpr ⟨c, hc, by simpa using hcid⟩)

/-- Performances of pending transfers, one after another: their events in this order, and each transfer's outcome held
as its completion (R61). -/
theorem runSteps_performances {base : Nat} {ok : Nat → Bool} {rx : Nat → Nat} {rest : List Input} :
    ∀ {order : List Nat} {u : State}, order.Nodup → (∀ k ∈ order, Pending u.transport (base + k)) →
    u.inbox = order.map (fun k => .move (.perf (base + k) (ok k) (rx k))) ++ rest →
    ∃ t, runSteps order.length u = .next { u with
        inbox := rest, transport := t, trace := u.trace ++ order.map fun k => .perf (base + k) (ok k) } ∧
      (∀ k ∈ order, ∃ c, completionOf? t (base + k) = some c ∧ c.ok = ok k) ∧
      ∀ k ∉ order, completionOf? t (base + k) = completionOf? u.transport (base + k)
  | [], u, _, _, hbox => by
    obtain rfl : u.inbox = rest := hbox
    exact ⟨u.transport, by simp [runSteps_zero], nofun, fun _ _ => rfl⟩
  | j :: order, u, hnodup, hpend, hbox => by
    obtain ⟨hj, hnodup⟩ := List.nodup_cons.mp hnodup
    have hpj := hpend j List.mem_cons_self
    have hstep := step_move hbox
    set i := order.map (fun k => Input.move (.perf (base + k) (ok k) (rx k))) ++ rest
    obtain ⟨x, hx, hperf⟩ := perform_outstanding (s := { u with inbox := i }) hpj.outstanding (ok j) (rx j)
    have hne (k : Nat) (hk : k ≠ j) : x.id ≠ base + k := by omega
    obtain ⟨t, hrun, hdone, hkeep⟩ := runSteps_performances (rest := rest) (u := { u with
        inbox := i, transport := completeTransfer u.transport x (ok j) (rx j)
        trace := u.trace ++ [.perf (base + j) (ok j)] }) hnodup
      (fun k hk => (hpend k (List.mem_cons_of_mem j hk)).completeTransfer_ne
        (hne k (ne_of_mem_of_not_mem hk hj)) (ok j) (rx j)) rfl
    refine ⟨t, ?_, fun k hk => ?_, fun k hk => ?_⟩
    · rw [List.length_cons, runSteps_next (hstep.trans (congrArg Host.Outcome.next hperf)), hrun]
      simp
    · rcases List.mem_cons.mp hk with rfl | hk
      · rw [hkeep k hj, ← hx]
        exact completionOf?_completeTransfer_self (hx ▸ hpj.incomplete) (ok k) (rx k)
      · exact hdone k hk
    · obtain ⟨hkj, hk⟩ := List.ne_and_not_mem_of_not_mem_cons hk
      exact (hkeep k hk).trans (completionOf?_completeTransfer_ne (hne k hkj) (ok j) (rx j))

/-! ### The submissions of a batch in a row -/

section

variable {s : State} {T : FamilyTable} {fs : List Nat} {l : Bool} {rest : List Input}

/-- Moves of the engine in a row, up to its wait (R143 S1 to S3). -/
theorem BatchPoint.engineMoves (hT : sessionTable? s = some T)
    (hroom : outstandingOf s.transport s.cfg.handle + fs.length ≤ queueDepth s.transport s.cfg.handle) :
    ∀ {j : Nat} {p : List EnvMove} {u : State}, BatchPoint s T fs l p u → p.count .run + j ≤ fs.length + 2 →
      u.inbox = runs j ++ rest →
      ∃ v, runSteps j u = .next v ∧ v.inbox = rest ∧ BatchPoint s T fs l (p ++ List.replicate j .run) v
  | 0, p, u, h, _, hbox => ⟨u, rfl, hbox, by simpa using h⟩
  | j + 1, p, u, h, hj, hbox => by
    obtain ⟨v, hstep, hvbox, hv⟩ := h.run hT hroom hbox (by omega)
    obtain ⟨w, hrun, hwbox, hw⟩ := hv.engineMoves hT hroom (by rw [count_run_append]; omega) hvbox
    exact ⟨w, (runSteps_next hstep).trans hrun, hwbox, by simpa [List.replicate_succ] using hw⟩

theorem performedIds_replicate_run (j : Nat) : performedIds (List.replicate j .run) = [] := by
  simp [performedIds, performedId?]

/-- Where only the engine has moved, the batch's events are its submissions (R54). -/
theorem BatchPoint.trace_of_runs {j : Nat} {u : State} (h : BatchPoint s T fs l (List.replicate j .run) u) :
    u.trace = s.trace ++
      List.zipWith (fun id f => .sub id f T.W) (freshIds s.transport u.subIdx) (fs.take u.subIdx) := by
  obtain ⟨es, htrace, hengine, hperf⟩ := h.trace
  have hnone : es.filter (fun e => !isEngineEvent e) = [] := hperf.trans (by simp [perfEvent?])
  have hall : es.filter isEngineEvent = es :=
    List.filter_eq_self.mpr fun e he => by simpa using List.filter_eq_nil_iff.mp hnone e he
  rw [htrace, ← hengine, hall]

/-- Where a batch admitted in `s` stands at its wait while none of its transfers has been performed. -/
structure BatchSubmitted (s : State) (T : FamilyTable) (fs : List Nat) (l : Bool) (u : State) : Prop where
  kept    : BatchKept s fs l u
  pc      : u.pc = .w1
  fsm     : u.fsm = .awaitingCompletion
  subIdx  : u.subIdx = fs.length
  ids     : awaitedIds u = freshIds s.transport fs.length
  pending : ∀ k < fs.length, Pending u.transport (s.transport.nextId + k)
  trace   : u.trace = s.trace ++ List.zipWith (fun id f => .sub id f T.W) (freshIds s.transport fs.length) fs

theorem BatchPoint.submitted {u : State} (h : BatchPoint s T fs l (List.replicate (fs.length + 2) .run) u)
    (h₀ : TransportOk s.transport) : BatchSubmitted s T fs l u := by
  obtain ⟨pc, fsm, subIdx⟩ := h.waiting (by simp)
  refine ⟨h.kept, pc, fsm, subIdx, subIdx ▸ h.ids, fun k hk => ?_, ?_⟩
  · exact h.transport.pending h₀ (mem_freshIds.mpr ⟨k, subIdx ▸ hk, rfl⟩) (by simp [performedIds_replicate_run])
  · have htrace := h.trace_of_runs
    rwa [subIdx, List.take_length] at htrace

/-- A batch just admitted submits its frames by moves of the engine alone (R54). -/
theorem runSteps_submissions (hinv : Inv s) (hv : s.sessionValid = true) (hT : sessionTable? s = some T)
    (hdepth : fs.length ≤ s.cfg.depth)
    (hroom : outstandingOf s.transport s.cfg.handle + fs.length ≤ queueDepth s.transport s.cfg.handle) :
    ∃ u, runSteps (fs.length + 2)
        (loadEngine .pipelined false fs l { s with inbox := runs (fs.length + 2) ++ rest }) = .next u ∧
      u.inbox = rest ∧ BatchSubmitted s T fs l u := by
  have hslots : fs.length ≤ s.ids.length := by
    have := (hinv.session hv).depth
    have := hinv.idsLen
    omega
  obtain ⟨u, hrun, hbox, hu⟩ := (BatchPoint.loaded T _ (hinv.opening_eq_none_of_session hv) hslots).engineMoves
    (rest := rest) hT hroom (Nat.zero_add _).le rfl
  exact ⟨u, hrun, hbox, BatchPoint.submitted hu hinv.transport⟩

end

/-! ### The wait and the end -/

/-- The wait of which one transfer named has failed (R43, R143 W1). -/
theorem awaitAnswer_failure {cs : List Completion} {c : Completion} (hc : c ∈ cs) (hfail : c.ok = false) :
    awaitAnswer cs = .transportFailure :=
  if_neg fun hall => by simpa [hfail] using List.all_eq_true.mp hall c hc

/-- Line W1 of an operation without an error, one of whose transfers has failed (R143 W1, R199). -/
theorem engineStep_w1_failure {s : State} {c : Completion} {cs : List Completion} (hs : s.fsm ≠ .idle)
    (hpc : s.pc = .w1) (hn : s.subIdx ≠ 0) (clean : s.failed = false)
    (hcs : completionsOf? s.transport (awaitedIds s) = some cs) (hc : c ∈ cs) (hfail : c.ok = false) :
    engineStep s = .next { s with
      pc := .w2, transport := clearCompletions s.transport (awaitedIds s), failed := true, err := awaitError s.mode
      trace := s.trace ++ [.await (awaitedIds s) .transportFailure] } := by
  rw [engineStep_w1 hs hpc, stepW1_of_complete hn hcs, awaitAnswer_failure hc hfail, takeRx_awaitReturns_failure]
  simp [clean]

theorem engineStep_w3_failed {s : State} (hs : s.fsm ≠ .idle) (hpc : s.pc = .w3) (failed : s.failed = true) :
    engineStep s = .next { s with fsm := .anyFailed, pc := .f1 } := by
  simp [engineStep, hs, hpc, stepW3, failed]

theorem engineStep_f1 {s : State} (hs : s.fsm ≠ .idle) (hpc : s.pc = .f1) :
    engineStep s = .next (finishOp (.err s.err) s) := by
  simp [engineStep, hs, hpc]

/-- The end of a batch one of whose transfers has failed, from its wait: no line call, and its error (R143 W1 to W3, F1,
R163, R201). -/
theorem runSteps_batchFailure {s : State} {c : Completion} {cs : List Completion} {rest : List Input}
    (hs : s.fsm ≠ .idle) (ho : s.opening = none) (hpc : s.pc = .w1) (hn : s.subIdx ≠ 0) (clean : s.failed = false)
    (hm : s.mode = .pipelined) (hcs : completionsOf? s.transport (awaitedIds s) = some cs) (hc : c ∈ cs)
    (hfail : c.ok = false) (hbox : s.inbox = runs 4 ++ rest) :
    runSteps 4 s = .next { s with
      fsm := .idle, pc := .idle, failed := true, err := .batchPartialFailure, result := .err .batchPartialFailure
      inbox := rest, transport := clearCompletions s.transport (awaitedIds s)
      trace := s.trace ++
        [.await (awaitedIds s) .transportFailure, .ret .writeBatchOp (.err .batchPartialFailure)] } := by
  have hw1 := engineStep_w1_failure (s := { s with inbox := runs 3 ++ rest }) hs hpc hn clean hcs hc hfail
  refine runSteps_engine hbox ho hw1 <|
    runSteps_engine rfl ho (engineStep_w2_pipelined hs rfl hm) <|
    runSteps_engine rfl ho (engineStep_w3_failed hs rfl rfl) <|
    runSteps_engine rfl ho (engineStep_f1 nofun rfl) ?_
  simp [runSteps_zero, finishOp, emit, opInFlight, hm, awaitError, awaitedIds]

/-- Where each transfer of the batch has completed with its outcome and one has failed, the wait for all of them returns
a failure among its completions (R43). -/
theorem exists_failed_completion {t t₀ : Transport} {n : Nat} {ok : Nat → Bool}
    (hdone : ∀ k < n, ∃ c, completionOf? t (t₀.nextId + k) = some c ∧ c.ok = ok k)
    (hfail : ∃ k < n, ok k = false) :
    ∃ cs, completionsOf? t (freshIds t₀ n) = some cs ∧ ∃ c ∈ cs, c.ok = false := by
  obtain ⟨cs, hcs, hok⟩ := completionsOf?_of_forall (t := t) (ids := freshIds t₀ n)
    (p := fun c => ∀ k, c.id = t₀.nextId + k → c.ok = ok k) fun id hid => by
      obtain ⟨k, hk, rfl⟩ := mem_freshIds.mp hid
      obtain ⟨c, hc, hck⟩ := hdone k hk
      refine ⟨c, hc, fun j hj => ?_⟩
      obtain rfl : k = j := Nat.add_left_cancel ((completionOf?_some hc).2.symm.trans hj)
      exact hck
  obtain ⟨k, hk, hbad⟩ := hfail
  have hmem : t₀.nextId + k ∈ cs.map (·.id) :=
    (completionsOf?_some hcs).1 ▸ mem_freshIds.mpr ⟨k, hk, rfl⟩
  obtain ⟨c, hc, hid⟩ := List.mem_map.mp hmem
  exact ⟨cs, hcs, c, hc, (hok c hc k hid).trans hbad⟩

end Sys2Proof.Machine

open Sys2Proof Sys2Proof.Machine in
/-- Settles O47: the batch is admitted and submitted, its transfers are performed, and the wait returns the failure,
which leads by way of line F1 to the end. -/
theorem partialFailureSkipsTheLatch : Obligations.PartialFailureSkipsTheLatch := by
  intro s T ws fs order ok rx l rest hinv hv hs hT hdepth hwf hfs hroom id ids horder hfail hbox
  have hlen : ws.length = fs.length := by simpa using congrArg List.length hfs
  have hids : ids = freshIds s.transport fs.length := by rw [← hlen]; rfl
  have hmem (k : Nat) : k ∈ order ↔ k < fs.length := by rw [horder.mem_iff, List.mem_range, hlen]
  rw [hlen] at hroom hfail hbox ⊢
  rw [List.cons_append, List.cons_append, List.cons_append, List.append_assoc, List.append_assoc] at hbox
  have hport := step_writeBatch_admits hv hs hT hdepth hfs hwf hbox
  obtain ⟨u, hsubmit, hubox, hu⟩ := runSteps_submissions (l := l)
    (rest := order.map (fun k => .move (.perf (id k) (ok k) (rx k))) ++ (runs 4 ++ rest))
    hinv hv hT (hlen ▸ hdepth) hroom
  obtain ⟨t, hperform, hdone, _⟩ := runSteps_performances (base := s.transport.nextId) (ok := ok)
    (horder.nodup_iff.mpr List.nodup_range) (fun k hk => hu.pending k ((hmem k).mp hk)) hubox
  obtain ⟨cs, hcs, c, hc, hbad⟩ := exists_failed_completion (fun k hk => hdone k ((hmem k).mpr hk)) hfail
  have hne : u.subIdx ≠ 0 := by
    obtain ⟨k, hk, _⟩ := hfail
    rw [hu.subIdx]
    omega
  have hend := runSteps_batchFailure (c := c) (cs := cs) (rest := rest)
    (s := { u with
      inbox := runs 4 ++ rest, transport := t
      trace := u.trace ++ order.map fun k => .perf (s.transport.nextId + k) (ok k) })
    (by simp [hu.fsm]) hu.kept.opening hu.pc hne hu.kept.failed hu.kept.mode
    ((congrArg (completionsOf? t) hu.ids).trans hcs) hc hbad rfl
  have hrun := runSteps_trans (runSteps_one hport) (runSteps_trans hsubmit (runSteps_trans hperform hend))
  have hsteps : 1 + (fs.length + 2 + (order.length + 4)) = 2 * fs.length + 7 := by
    have hcount : order.length = fs.length := by rw [horder.length_eq, List.length_range, hlen]
    omega
  rw [hsteps] at hrun
  refine ⟨_, hrun, ?_, rfl, rfl, hu.kept.lineLatch, hu.kept.lineAnswers, rfl⟩
  have hawaited := hu.ids
  rw [awaitedIds] at hawaited
  simp only [awaitedIds, hawaited, hu.trace, hids, id]
end

section
/-! PROOF. Which steps answer `NoSession` (R142 A1, R202): the errors of the block's moves, none of which is it, and the
admission of an operation by its first check. -/

namespace Sys2Proof.Machine

theorem isEngineError_noSession (m : Mode) : isEngineError m .noSession = false := by
  cases m <;> rfl

section

variable {s t : State} {es : List Event} {op : HostOp} {e : Error} (trace : t.trace = s.trace ++ es)
  (hret : .ret op (.err e) ∈ es)
include trace hret

/-- The error a move of the block or the transport answers is one a step of the engine records, or a read-back that
could not be decoded (R143, R185, R199). -/
theorem error_of_envStep {m : EnvMove} (hinv : Inv s) (h : envStep m s = .next t) :
    isEngineError s.mode e = true ∨ e = .malformedFrame := by
  cases m with
  | run =>
    change blockStep s = .next t at h
    rcases blockStep_cases s with ⟨o, ho, hb⟩ | ⟨_, hb⟩ <;> rw [hb] at h
    · obtain rfl := error_of_openStep trace hret (hinv.opening o ho).noSession h
      exact .inl rfl
    · rcases engineStep_cases h with rfl | ⟨hs, hmove⟩
      · exact (false_of_trace_eq_self trace hret rfl).elim
      · exact error_of_engine trace hret hinv hs hmove
  | perf id ok rx =>
    cases h
    rcases perform_cases id ok rx s with hp | ⟨x, _, _, hp⟩ <;> rw [hp] at trace
    · exact (false_of_trace_eq_self trace hret rfl).elim
    · exact absurd (List.mem_singleton.mp (mem_of_trace_eq trace hret rfl)) nofun
  | expire f =>
    cases h
    rcases waitExpires_cases f s with hw | ⟨hm, _, hw⟩ | ⟨hm, hw⟩ <;> rw [hw] at trace
    · exact (false_of_trace_eq_self trace hret rfl).elim
    · obtain ⟨hs, hpc, _⟩ := mayExpire_iff.mp hm
      exact error_of_engine trace hret hinv hs (.expires .transportFailure .w2 hpc (.inl ⟨rfl, rfl⟩))
    · obtain ⟨hs, hpc, _⟩ := mayExpire_iff.mp hm
      exact error_of_engine trace hret hinv hs (.expires .timeout .w1Sync hpc (.inr ⟨rfl, rfl⟩))

/-- The error admission answers is that of its first check that applies (R142). -/
theorem admissionRefusal_of_error {T : FamilyTable} (hT : sessionTable? s = some T) {op' : HostOp} {m : Mode} {b : Bool}
    {ws : List RegisterWord} {l : Bool} (h : admission op' m b ws l s = .next t) :
    admissionRefusal T m b ws s = some e := by
  have hanswers := admission_answers (op := op') (m := m) (b := b) (ws := ws) (l := l) hT
  unfold AdmissionAnswers at hanswers
  rw [h] at hanswers
  cases hr : admissionRefusal T m b ws s with
  | none =>
    rw [hr] at hanswers
    obtain ⟨fs, _, heq⟩ := hanswers
    cases heq
    exact (false_of_trace_eq_self trace hret rfl).elim
  | some e' =>
    rw [hr] at hanswers
    cases hanswers
    have hmem := mem_of_trace_eq trace hret rfl
    rw [List.mem_singleton, Event.ret.injEq, OpResult.err.injEq] at hmem
    rw [hmem.2]

/-- Admission answers `NoSession` by its check A1 alone (R142). -/
theorem noSession_of_admission (he : e = .noSession) (hinv : Inv s) {op' : HostOp} {m : Mode} {b : Bool}
    {ws : List RegisterWord} {l : Bool} (h : admission op' m b ws l s = .next t) : s.sessionValid = false := by
  by_contra hv
  obtain ⟨T, hT⟩ := hinv.table (by simpa using hv)
  have hr := admissionRefusal_of_error trace hret hT h
  rw [admissionRefusal, if_neg hv, he] at hr
  split_ifs at hr <;> cases hr

/-- Of the operations WRITE, WRITE_BATCH and READ alone answer `NoSession` (R202). -/
theorem operation_of_noSession (he : e = .noSession) (hinv : Inv s) {i : Instr} (h : exec i s = .next t) :
    s.sessionValid = false ∧
      ((∃ w, i = .hostWrite w) ∨ (∃ ws l, i = .hostWriteBatch ws l) ∨ ∃ w, i = .hostRead w) := by
  cases i with
  | hostOpen hd c =>
    subst he
    rcases execOpen_cases h with ⟨_, rfl⟩ | ⟨_, _, _, _, _, ⟨_, rfl⟩ | ⟨_, rfl⟩⟩
    · simpa using mem_of_trace_eq trace hret (fs := [.ret .openOp (.err .transportBusy)]) rfl
    · simpa using mem_of_trace_eq trace hret (fs := [.ret .openOp (.err .missingPin)]) rfl
    · exact (false_of_trace_eq_self trace hret rfl).elim
  | hostWrite w => exact ⟨noSession_of_admission trace hret he hinv h, .inl ⟨w, rfl⟩⟩
  | hostWriteBatch ws l => exact ⟨noSession_of_admission trace hret he hinv h, .inr (.inl ⟨ws, l, rfl⟩)⟩
  | hostRead w => exact ⟨noSession_of_admission trace hret he hinv h, .inr (.inr ⟨w, rfl⟩)⟩
  | _ => exact (false_of_evalEncode trace hret h).elim

/-- The error a presentation answers is that of the operation it selects (R85, R100). -/
theorem exec_of_present {w : PortWord} (h : present w s = .next t) :
    ∃ i, decode w = .instr i ∧ exec i s = .next t := by
  unfold present at h
  split at h
  · exact ⟨_, by assumption, h⟩
  · cases h
    exact (false_of_trace_eq_self trace hret rfl).elim
  · cases h
    exact (false_of_trace_eq_self trace hret rfl).elim

/-- The error a step answers is a move's, or that of an operation presented (R41, R61, R220). -/
theorem error_of_step (hinv : Inv s) (h : step s = .next t) :
    (isEngineError s.mode e = true ∨ e = .malformedFrame) ∨
    ∃ w i xs, s.inbox = .port w :: xs ∧ decode w = .instr i ∧ exec i { s with inbox := xs } = .next t := by
  rcases step_cases s with ⟨x, xs, hx, hstep⟩ | ⟨_, hstep⟩ <;> rw [hstep] at h
  · have trace : t.trace = { s with inbox := xs }.trace ++ es := trace
    cases x with
    | port w =>
      obtain ⟨i, hi, hexec⟩ := exec_of_present trace hret h
      exact .inr ⟨w, i, xs, hx, hi, hexec⟩
    | move m => exact .inl (error_of_envStep (s := { s with inbox := xs }) trace hret (hinv.afterInput xs s.draws) h)
    | reset =>
      cases h
      exact (false_of_trace_eq_self trace hret rfl).elim
  · have trace : t.trace = { s with draws := s.draws + 1 }.trace ++ es := trace
    exact .inl (error_of_envStep (s := { s with draws := s.draws + 1 }) trace hret
      (hinv.afterInput s.inbox (s.draws + 1)) h)

end

/-- A step that answers `NoSession` is a presentation of WRITE, WRITE_BATCH or READ without a session (R202). -/
theorem step_noSession {s t : State} {op : HostOp} {es : List Event} (hinv : Inv s) (h : step s = .next t)
    (trace : t.trace = s.trace ++ es) (hret : .ret op (.err .noSession) ∈ es) :
    s.sessionValid = false ∧ ∃ p, s.inbox.head? = some (.port p) ∧
      ((∃ w, decode p = .instr (.hostWrite w)) ∨ (∃ ws l, decode p = .instr (.hostWriteBatch ws l)) ∨
        ∃ w, decode p = .instr (.hostRead w)) := by
  rcases error_of_step trace hret hinv h with (hengine | hframe) | ⟨p, i, xs, hbox, hdecode, hexec⟩
  · exact absurd ((isEngineError_noSession s.mode).symm.trans hengine) nofun
  · cases hframe
  · have trace : t.trace = { s with inbox := xs }.trace ++ es := trace
    obtain ⟨hv, hi⟩ := operation_of_noSession trace hret rfl (hinv.afterInput xs s.draws) hexec
    refine ⟨hv, p, by rw [hbox]; rfl, ?_⟩
    rcases hi with ⟨w, rfl⟩ | ⟨ws, l, rfl⟩ | ⟨w, rfl⟩
    · exact .inl ⟨w, hdecode⟩
    · exact .inr (.inl ⟨ws, l, hdecode⟩)
    · exact .inr (.inr ⟨w, hdecode⟩)

end Sys2Proof.Machine

open Sys2Proof Sys2Proof.Machine in
/-- Settles O28: the check A1 comes first, and what every step can answer. -/
theorem noSessionExactlyWithoutSession : Obligations.NoSessionExactlyWithoutSession :=
  ⟨fun _ hv => ⟨fun _ => admission_noSession hv _ _ _ _ _, fun _ _ => admission_noSession hv _ _ _ _ _,
      fun _ => admission_noSession hv _ _ _ _ _⟩,
    fun _ _ _ _ hinv h trace hret => step_noSession hinv h trace hret⟩
end

section
/-! PROOF. The engine steps an operation can still take become fewer with every line but the waiting one (R143, R147,
R238). -/

namespace Sys2Proof.Machine

/-- From S1 to S2, whether or not the SYNC call has failed in between. -/
theorem remaining_lt_of_s1 {s t : State} (hs : s.pc = .s1) (ht : t.pc = .s2) (hn : t.n = s.n)
    (hi : t.subIdx = s.subIdx) : remaining t < remaining s := by
  cases hf : t.failed <;> simp [remaining, hs, ht, hn, hi, hf]

theorem Goes.remaining_lt {s : State} {f : Fsm} {p : EngineLine} {r : OpResult} (h : Goes s f p r) :
    remaining { s with fsm := f, pc := p, res := r } < remaining s := by
  cases h with
  | s1 hpc => exact remaining_lt_of_s1 hpc rfl rfl rfl
  | s3 hpc => simp only [remaining, hpc]; omega
  | noWait hpc | w2 hpc | failing hpc | confirmed hpc | latching hpc | unlatched hpc | decoded _ hpc | c2 hpc =>
    simp [remaining, hpc]

/-- A line other than S2 that is taken. (S2 submits only while no error is recorded, which `EngineMove` leaves out.) -/
theorem EngineMove.remaining_lt {s t : State} (h : EngineMove s t) (hs2 : s.pc ≠ .s2) :
    remaining t < remaining s := by
  cases h with
  | goes f p r next => exact next.remaining_lt
  | calls v p direct next =>
    cases next with
    | s1 hpc => exact remaining_lt_of_s1 hpc rfl (by simp) (by simp)
    | w2 hpc => simp [remaining, hpc]
  | idles r v p next =>
    cases next with
    | sync hpc | latch hpc => simp [remaining, hpc]
  | queueFull hpc | submits _ _ hpc => exact absurd hpc hs2
  | awaited _ hpc | pulsed _ hpc | pulseFailed _ hpc => simp [remaining, hpc]
  | expires a p hpc next => rcases next with ⟨_, rfl⟩ | ⟨_, rfl⟩ <;> simp [remaining, hpc]
  | ends r last => rcases last with ⟨hpc, _⟩ | ⟨hpc, _⟩ <;> simp [remaining, hpc]

/-- Line S2 fills a slot, records the operation's first error, or leaves `Submitting`. -/
theorem stepS2_remaining_lt {s t : State} (hpc : s.pc = .s2) (h : stepS2 s = .next t) :
    remaining t < remaining s := by
  rcases stepS2_cases h with ⟨T, f, hlt, clean, _, _, rfl⟩ | ⟨last, rfl⟩
  · by_cases hq : queueFull s.transport s.cfg.handle = true
    · rw [submit_full hq]
      simp [afterSubmit, remaining, hpc, clean]
    · rw [submit_accepted (by simpa using hq)]
      simp only [afterSubmit, emit, remaining, hpc, clean]
      omega
  · exact (Goes.s3 hpc last).remaining_lt

/-- At W1 the engine goes on, unless a transfer it waits for has not completed (R147). -/
theorem engineMove_of_w1 {s t : State} (hs : s.fsm ≠ .idle) (hp : pcFits s.fsm s.pc = true) (hpc : s.pc = .w1)
    (hw : ¬ Waiting s) (h : engineStep s = .next t) : EngineMove s t := by
  rw [engineStep_w1 hs hpc] at h
  cases h
  by_cases hn : s.subIdx = 0
  · rw [stepW1, if_pos hn]
    exact .goes s.fsm .w2 s.res (.noWait hpc hn)
  · cases hc : completionsOf? s.transport (awaitedIds s) with
    | none => exact absurd ⟨pcFits_awaiting hp (.inl hpc), hpc, hn, hc⟩ hw
    | some cs =>
      rw [stepW1_of_complete hn hc]
      exact .awaited cs hpc hn hc

theorem engineStep_remaining_lt {s t : State} (hs : s.fsm ≠ .idle) (hp : pcFits s.fsm s.pc = true)
    (hw : ¬ Waiting s) (h : engineStep s = .next t) : remaining t < remaining s := by
  cases hb : beforeAwait s.pc with
  | false => exact (engineMove_of_afterWait hs hp hb h).remaining_lt fun hpc => by simp [hpc, beforeAwait] at hb
  | true =>
    cases hpc : s.pc with
    | s1 =>
      simp only [engineStep, if_neg hs, hpc] at h
      cases h
      exact (stepS1_move hpc).remaining_lt (by simp [hpc])
    | s2 =>
      simp only [engineStep, if_neg hs, hpc] at h
      exact stepS2_remaining_lt hpc h
    | w1 => exact (engineMove_of_w1 hs hp hpc hw h).remaining_lt (by simp [hpc])
    | _ => simp [hpc, beforeAwait] at hb

end Sys2Proof.Machine

open Sys2Proof Sys2Proof.Machine in
/-- Settles O49: every line but the waiting one lowers the count. -/
theorem engineStepsMakeProgress : Obligations.EngineStepsMakeProgress :=
  fun _ _ hinv hs hw h => engineStep_remaining_lt hs hinv.pc hw h
end

section
/-! PROOF. The reset input (R220 to R222), and the run it leaves without an end (R239). -/

namespace Sys2Proof.Machine

/-- A step at the reset input resets the block. -/
theorem step_reset {s : State} {rest : List Input} (h : s.inbox = .reset :: rest) :
    step s = .next (hardwareReset { s with inbox := rest }) := by
  simp [step, h, deliver]

/-- Nothing has returned since the reset input abandoned an operation, so that the run has not ended (R222, R239). -/
theorem not_runEnded_hardwareReset {s : State} (h : operationInFlight s = true) : ¬ RunEnded (hardwareReset s) := by
  intro hend
  have hret := hend.answered s.trace.length (by simp [h])
  simp at hret

end Sys2Proof.Machine

open Sys2Proof Sys2Proof.Machine in
/-- Settles O59: what the reset input writes, and what it leaves. -/
theorem resetInputForgetsSilently : Obligations.ResetInputForgetsSilently := by
  intro s rest hbox
  have hend : operationInFlight s = true → ¬ RunEnded (hardwareReset { s with inbox := rest }) :=
    fun h => not_runEnded_hardwareReset (s := { s with inbox := rest }) h
  exact ⟨_, step_reset hbox, rfl, rfl, rfl, rfl, rfl, rfl, rfl, rfl, rfl, rfl, rfl, hend⟩
end
